-- ==== Sys2Proof/Word.lean ====
section
/-! DEFINITION. The bit-vector types of the PNG-CFE: a byte, a 32-bit word, a 40-bit command packet
(`00_scope.md` rules R8, R10; `30_encoding.md` rule R70). -/

namespace Sys2Proof

/-- A byte: 8 bits, read unsigned (R8, R12). -/
abbrev Byte := BitVec 8

/-- A word: 32 bits (R8, R10). -/
abbrev Word := BitVec 32

/-- A command packet: 40 bits, `op` in bits 39:32 and `imm` in bits 31:0 (R70). -/
abbrev Packet := BitVec 40

end Sys2Proof
end

