-- ==== Sys2Proof/Config.lean ====
section
/-! DEFINITION. What the spec leaves open: the one parameter `MAXROW` (`00_scope.md` rule R7), and the free values
read from a line-memory byte that has no value (`93_implementation_defined.md` U16). None of the opaque constants has a
body, so no proof can use what it is. -/

namespace Sys2Proof

/-- The number `MAXROW` is made from. Nothing is known of it. -/
opaque Config.maxRowSeed : Nat

/-- `MAXROW`, the capacity of a line memory in data bytes: some number from 1 to `2^32 - 2`, and every one of them is
possible (R7). DESIGN CHOICE, log entry 3. -/
def Config.MAXROW : Nat := Config.maxRowSeed % (2 ^ 32 - 2) + 1

/-- What reading index `i` of `CUR` gives while that byte has no value (R27, U16: "any value"). No state the machine
reaches reads one. DESIGN CHOICE, log entry 4. -/
opaque Config.curNoValue : Nat → Byte

/-- What reading index `i` of `PREV` would give if that byte had no value; `PREV` has all its `LLEN` bytes in every state
the machine reaches (R28, R29). DESIGN CHOICE, log entry 4. -/
opaque Config.prevNoValue : Nat → Byte

end Sys2Proof
end

