-- ==== Sys2Proof/Syntax.lean ====
section
/-! DEFINITION. The syntax: the 14 opcodes and the three immediate classes (`30_encoding.md` rules R72, R77), the five
filter types (R79), and the 19 commands, one constructor per row of the opcode table (R77, R86). -/

namespace Sys2Proof

/-- The 14 assigned opcodes (R77). -/
inductive Opcode where
  | nop | reset | rdreg
  | crcInit | crcByte | crcRead | crcCheck
  | setSbc | setRowbytes | prevZero
  | linePush | linePop
  | defilt | filt
  deriving DecidableEq, Repr

/-- The three immediate classes (R72): no operand, byte operand, word operand. -/
inductive ImmClass where
  | N | B | W
  deriving DecidableEq, Repr

/-- The filter types, the tag values 0 to 4 of a line (R79). -/
inductive FilterType where
  | none | sub | up | average | paeth
  deriving DecidableEq, Repr

/-- The commands, one constructor per row of the opcode table (R77). Operand types hold exactly the values the
encoding admits; an operand out of its legal range is a matter of the command's own rule (R76). -/
inductive Instr where
  /-- `NOP` (R200). -/
  | nop
  /-- `RESET` (R201). -/
  | reset
  /-- `RDREG r` (R202). -/
  | rdreg (r : Byte)
  /-- `CRC_INIT` (R101). -/
  | crcInit
  /-- `CRC_BYTE b` (R102). -/
  | crcByte (b : Byte)
  /-- `CRC_READ` (R103). -/
  | crcRead
  /-- `CRC_CHECK v` (R104). -/
  | crcCheck (v : Word)
  /-- `SET_SBC n` (R120). -/
  | setSbc (n : Word)
  /-- `SET_ROWBYTES n` (R121). -/
  | setRowbytes (n : Word)
  /-- `PREV_ZERO` (R122). -/
  | prevZero
  /-- `LINE_PUSH b` (R123). -/
  | linePush (b : Byte)
  /-- `LINE_POP` (R124). -/
  | linePop
  /-- `DEFILT` (R150). -/
  | defilt
  /-- `FILT.NONE` (R170, R173). -/
  | filtNone
  /-- `FILT.SUB` (R170, R174). -/
  | filtSub
  /-- `FILT.UP` (R170, R175). -/
  | filtUp
  /-- `FILT.AVG` (R170, R176). -/
  | filtAvg
  /-- `FILT.PAETH` (R170, R177). -/
  | filtPaeth
  /-- `FILT.ADAPT` (R170, R193). -/
  | filtAdapt
  deriving DecidableEq, Repr

end Sys2Proof
end

