-- ==== Sys2Proof/WellFormed.lean ====
section
/-! DEFINITION. Well-formedness of a packet (`30_encoding.md` rule R76), written from the lists of rules R72, R76 and R77
and not from the decoder, so that the two can be held against each other. Every term of `Instr` is well-formed: its operand
types leave no reserved bit (the family `WellFormedEncoding` of `Laws/PerInstr.lean`). -/

namespace Sys2Proof

/-- The opcodes of class N (R77): NOP, RESET, CRC_INIT, CRC_READ, PREV_ZERO, LINE_POP, DEFILT. -/
def WellFormed.opsN : List Byte := [0x00, 0x01, 0x10, 0x12, 0x22, 0x31, 0x40]

/-- The opcodes of class B (R77): RDREG, CRC_BYTE, LINE_PUSH, FILT. -/
def WellFormed.opsB : List Byte := [0x02, 0x11, 0x30, 0x41]

/-- The opcodes of class W (R77): CRC_CHECK, SET_SBC, SET_ROWBYTES. -/
def WellFormed.opsW : List Byte := [0x13, 0x20, 0x21]

/-- A packet is well-formed when its `op` is assigned and every reserved immediate bit of its class is 0: all 32 for
class N, bits 31:8 for class B, none for class W (R72, R76). -/
def Packet.wellFormed (p : Packet) : Bool :=
  let op : Byte := p.extractLsb' 32 8
  (WellFormed.opsN.contains op && (p.extractLsb' 0 32 == 0)) ||
  (WellFormed.opsB.contains op && (p.extractLsb' 8 24 == 0)) ||
  WellFormed.opsW.contains op

end Sys2Proof
end

