-- ==== Sys2Proof/Decode.lean ====
section
/-! DEFINITION. Decoding and encoding of command packets (`30_encoding.md` rules R70 to R72, R76 to R78, R80, R81): a total
decoder that rejects by name, the encoder, the opcode table's match and mask numbers, and the byte form of packets. -/

namespace Sys2Proof

/-- Why a packet stands for no command of the opcode table. Every one of them raises InvariantError when the engine is
not halted (R81, R170). -/
inductive Reject where
  /-- The opcode is not assigned (R81). -/
  | unassignedOpcode (op : Byte)
  /-- An assigned opcode with a non-zero reserved immediate bit (R76, R81). -/
  | reservedBits (o : Opcode) (imm : Word)
  /-- A well-formed FILT packet whose strategy byte is 5 to `0xFE` (R77, R80, R170). -/
  | filtStrategy (s : Byte)
  deriving DecidableEq, Repr

/-- The opcode field, bits 39:32 (R70). -/
def opOf (p : Packet) : Byte := p.extractLsb' 32 8

/-- The immediate field, bits 31:0 (R70). -/
def immOf (p : Packet) : Word := p.extractLsb' 0 32

/-- The packet `{op, imm}` (R70). -/
def mkPacket (op : Byte) (imm : Word) : Packet := op ++ imm

/-- The number of each opcode (R77). -/
def Opcode.toByte : Opcode → Byte
  | .nop => 0x00
  | .reset => 0x01
  | .rdreg => 0x02
  | .crcInit => 0x10
  | .crcByte => 0x11
  | .crcRead => 0x12
  | .crcCheck => 0x13
  | .setSbc => 0x20
  | .setRowbytes => 0x21
  | .prevZero => 0x22
  | .linePush => 0x30
  | .linePop => 0x31
  | .defilt => 0x40
  | .filt => 0x41

/-- All 14 opcodes (R77). -/
def Opcode.all : List Opcode :=
  [.nop, .reset, .rdreg, .crcInit, .crcByte, .crcRead, .crcCheck, .setSbc, .setRowbytes, .prevZero,
   .linePush, .linePop, .defilt, .filt]

/-- The opcode with the given number, if it is assigned (R77, R81). -/
def Opcode.ofByte (b : Byte) : Option Opcode := Opcode.all.find? (fun o => o.toByte == b)

/-- The immediate class of each opcode (R77). -/
def Opcode.immClass : Opcode → ImmClass
  | .nop => .N
  | .reset => .N
  | .rdreg => .B
  | .crcInit => .N
  | .crcByte => .B
  | .crcRead => .N
  | .crcCheck => .W
  | .setSbc => .W
  | .setRowbytes => .W
  | .prevZero => .N
  | .linePush => .B
  | .linePop => .N
  | .defilt => .N
  | .filt => .B

/-- The reserved immediate bits of a class are all 0 (R72). -/
def ImmClass.reservedClear (c : ImmClass) (imm : Word) : Bool :=
  match c with
  | .N => imm == 0
  | .B => imm.extractLsb' 8 24 == 0
  | .W => true

/-- The byte operand of a class B immediate, `imm[7:0]` (R72). -/
def byteOperand (imm : Word) : Byte := imm.extractLsb' 0 8

/-- The FILT command of a strategy byte: 0 to 4 the fixed types, `0xFF` Adaptive, the others none (R80). -/
def filtOfStrategy (s : Byte) : Option Instr :=
  if s = 0x00 then some .filtNone
  else if s = 0x01 then some .filtSub
  else if s = 0x02 then some .filtUp
  else if s = 0x03 then some .filtAvg
  else if s = 0x04 then some .filtPaeth
  else if s = 0xFF then some .filtAdapt
  else none

/-- The command of an assigned opcode and an immediate with its reserved bits clear (R77). -/
def decodeOperand (o : Opcode) (imm : Word) : Except Reject Instr :=
  match o with
  | .nop => .ok .nop
  | .reset => .ok .reset
  | .rdreg => .ok (.rdreg (byteOperand imm))
  | .crcInit => .ok .crcInit
  | .crcByte => .ok (.crcByte (byteOperand imm))
  | .crcRead => .ok .crcRead
  | .crcCheck => .ok (.crcCheck imm)
  | .setSbc => .ok (.setSbc imm)
  | .setRowbytes => .ok (.setRowbytes imm)
  | .prevZero => .ok .prevZero
  | .linePush => .ok (.linePush (byteOperand imm))
  | .linePop => .ok .linePop
  | .defilt => .ok .defilt
  | .filt =>
    match filtOfStrategy (byteOperand imm) with
    | some i => .ok i
    | none => .error (.filtStrategy (byteOperand imm))

/-- Decoding of one packet: the opcode, then the reserved bits, then the operand (R76, R77, R81). -/
def decode (p : Packet) : Except Reject Instr :=
  match Opcode.ofByte (opOf p) with
  | none => .error (.unassignedOpcode (opOf p))
  | some o =>
    if o.immClass.reservedClear (immOf p) then decodeOperand o (immOf p)
    else .error (.reservedBits o (immOf p))

/-- A class B immediate: the operand in bits 7:0, the reserved bits 31:8 zero (R72). -/
def byteImm (b : Byte) : Word := (0 : BitVec 24) ++ b

/-- The packet of a command (R77). -/
def encode : Instr → Packet
  | .nop => mkPacket 0x00 0
  | .reset => mkPacket 0x01 0
  | .rdreg r => mkPacket 0x02 (byteImm r)
  | .crcInit => mkPacket 0x10 0
  | .crcByte b => mkPacket 0x11 (byteImm b)
  | .crcRead => mkPacket 0x12 0
  | .crcCheck v => mkPacket 0x13 v
  | .setSbc n => mkPacket 0x20 n
  | .setRowbytes n => mkPacket 0x21 n
  | .prevZero => mkPacket 0x22 0
  | .linePush b => mkPacket 0x30 (byteImm b)
  | .linePop => mkPacket 0x31 0
  | .defilt => mkPacket 0x40 0
  | .filtNone => mkPacket 0x41 (byteImm 0x00)
  | .filtSub => mkPacket 0x41 (byteImm 0x01)
  | .filtUp => mkPacket 0x41 (byteImm 0x02)
  | .filtAvg => mkPacket 0x41 (byteImm 0x03)
  | .filtPaeth => mkPacket 0x41 (byteImm 0x04)
  | .filtAdapt => mkPacket 0x41 (byteImm 0xFF)

/-- The `match` and `mask` numbers of a command's row of the opcode table, transcribed from R77. -/
def Instr.row : Instr → Packet × Packet
  | .nop => (0x0000000000, 0xFFFFFFFFFF)
  | .reset => (0x0100000000, 0xFFFFFFFFFF)
  | .rdreg _ => (0x0200000000, 0xFFFFFFFF00)
  | .crcInit => (0x1000000000, 0xFFFFFFFFFF)
  | .crcByte _ => (0x1100000000, 0xFFFFFFFF00)
  | .crcRead => (0x1200000000, 0xFFFFFFFFFF)
  | .crcCheck _ => (0x1300000000, 0xFF00000000)
  | .setSbc _ => (0x2000000000, 0xFF00000000)
  | .setRowbytes _ => (0x2100000000, 0xFF00000000)
  | .prevZero => (0x2200000000, 0xFFFFFFFFFF)
  | .linePush _ => (0x3000000000, 0xFFFFFFFF00)
  | .linePop => (0x3100000000, 0xFFFFFFFFFF)
  | .defilt => (0x4000000000, 0xFFFFFFFFFF)
  | .filtNone => (0x4100000000, 0xFFFFFFFFFF)
  | .filtSub => (0x4100000001, 0xFFFFFFFFFF)
  | .filtUp => (0x4100000002, 0xFFFFFFFFFF)
  | .filtAvg => (0x4100000003, 0xFFFFFFFFFF)
  | .filtPaeth => (0x4100000004, 0xFFFFFFFFFF)
  | .filtAdapt => (0x41000000FF, 0xFFFFFFFFFF)

/-- The five bytes of a packet on a byte-wide transport, most significant first (R71). -/
def packetBytes (p : Packet) : List Byte :=
  [p.extractLsb' 32 8, p.extractLsb' 24 8, p.extractLsb' 16 8, p.extractLsb' 8 8, p.extractLsb' 0 8]

/-- The packet of five bytes in transport order (R71). -/
def packetOfBytes (b4 b3 b2 b1 b0 : Byte) : Packet :=
  mkPacket b4 (((b3 ++ b2 : BitVec 16) ++ (b1 ++ b0 : BitVec 16) : BitVec 32))

/-- What reading one command off a byte-wide transport gives: a command or a rejected packet with the bytes that
follow, or no whole packet (R71; `93_implementation_defined.md` U22: framing is outside the model). -/
inductive ByteDecode where
  | command (i : Instr) (rest : List Byte)
  | rejected (r : Reject) (rest : List Byte)
  | incomplete
  deriving DecidableEq, Repr

/-- Decoding of a byte sequence in transport order, total on any bytes (R71). Log entry 13. -/
def decodeBytes : List Byte → ByteDecode
  | b4 :: b3 :: b2 :: b1 :: b0 :: rest =>
    match decode (packetOfBytes b4 b3 b2 b1 b0) with
    | .ok i => .command i rest
    | .error r => .rejected r rest
  | _ => .incomplete

/-- The packet whose bits are `w`, numbered as the opcode table numbers them: bit 0 the least significant of the
40-bit packet (R77). Bits at `nbits` and above are 0. Log entry 9. -/
def tablePacket (nbits w : Nat) : Packet := BitVec.ofNat 40 (w % 2 ^ nbits)

/-- The command the decoder reads from a table word (R77, R86). A number of more than 40 bits is no packet. -/
def decodeTableWord (nbits w : Nat) : Option Instr :=
  if w % 2 ^ nbits < 2 ^ 40 then
    match decode (tablePacket nbits w) with
    | .ok i => some i
    | .error _ => none
  else none

end Sys2Proof
end

