-- ==== Sys2Proof/Machine/State.lean ====
section
/-! DEFINITION. The state of the machine: the engine's nine architectural elements (`10_state.md` rule R20), the two ports
of the model (`20_memory.md` rule R50), the state after reset (R41), and the reasons a step can stop. -/

namespace Sys2Proof.Machine

/-- The values of `ERR` (R22): 0 no error, 1 FormatError, 2 CorruptionError, 3 InvariantError. Log entry 11. -/
inductive ErrCode where
  | noError | formatError | corruptionError | invariantError
  deriving DecidableEq, Repr

/-- The values of `PHASE` (R23): 0 LOAD, 1 FULL, 2 DRAIN. The value 3 never occurs and has no constructor. Log entry 11. -/
inductive Phase where
  | load | full | drain
  deriving DecidableEq, Repr

/-- A line memory (R50, R51): the bytes that have a value, each with its index. Canonical form: indices strictly
rising. An index that is not listed has no value (R27). -/
abbrev LineMem := List Host.Cell

/-- One response packet (R73). -/
structure Response where
  /-- Bits 39:32: `ERR` as it stands after the command, zero-extended. -/
  ack : Byte
  /-- Bits 31:0: the value the command responds with, else 0. -/
  data : Word
  deriving DecidableEq, Repr

/-- The architectural state: exactly the nine elements of R20. -/
structure Engine where
  /-- `ACC`, the CRC accumulator before the final XOR (R21). -/
  acc : Word
  /-- `ERR`, the sticky error code (R22). -/
  err : ErrCode
  /-- `PHASE`, what the filter unit waits for (R23). -/
  phase : Phase
  /-- `SBC`, the sample bit count (R24). -/
  sbc : BitVec 7
  /-- `ROWBYTES`, the data bytes of a line (R25). -/
  rowBytes : Word
  /-- `WP`, the write pointer (R26). -/
  wp : Word
  /-- `RP`, the read pointer (R26). -/
  rp : Word
  /-- `CUR`, the current-line memory (R27). -/
  cur : LineMem
  /-- `PREV`, the previous-line memory (R28). -/
  prev : LineMem
  deriving DecidableEq, Repr

/-- The whole state: the engine, and what it has to do with the outside, which are the model's own fields: the two ports
of R50 (log entry 1) and the reset input of R260 (log entry 6). -/
structure State extends Engine where
  /-- The command port: the packets the host has issued whose responses have not been produced, oldest first. -/
  inbox : List Packet
  /-- The reset input has been asserted, and the engine has not yet been reset by it (R260). -/
  resetAsserted : Bool
  /-- The response port: every response produced, oldest first (R61, R73). -/
  outbox : List Response
  deriving DecidableEq, Repr

/-- Why a step can stop with a fault. -/
inductive Fault where
  /-- `LINE_PUSH` or `LINE_POP` with its pointer at `LLEN` or above: `CUR` has no such index (R50). Raised by
  `execLinePush` and `execLinePop`, only in states that R29 rules out. Safe. Log entry 5. -/
  | noSuchLineIndex (index : Nat)
  deriving DecidableEq, Repr

/-- Why a step can be refused. -/
inductive Refusal where
  /-- An instruction with no meaning yet, by its mnemonic. Raised by no arm of `exec`: every command has its meaning.
  Safe. -/
  | notModelled (mnemonic : String)
  deriving DecidableEq, Repr

/-- What a meaning and a step answer. -/
abbrev Result := Host.Outcome State Fault Refusal

/-- The engine after reset (R41): `ACC = 0xFFFFFFFF`, `ERR = 0`, `PHASE = LOAD`, `SBC = 8`, `ROWBYTES = 1`, `WP = 0`,
`RP = 0`, no byte of `CUR` defined, `PREV = 00 00`. -/
def Engine.reset : Engine where
  acc := 0xFFFFFFFF
  err := .noError
  phase := .load
  sbc := 8
  rowBytes := 1
  wp := 0
  rp := 0
  cur := []
  prev := [(0, 0), (1, 0)]

/-- The machine right after reset (R41, R260): the engine's reset values and empty ports (log entries 1 and 2), the reset input
released (log entry 6). -/
def State.reset : State where
  toEngine := Engine.reset
  inbox := []
  resetAsserted := false
  outbox := []

end Sys2Proof.Machine
end

