-- ==== Sys2Proof/Machine/Flags.lean ====
section
/-! DEFINITION. The only flag `ERR` and the conditions read from the status fields: the error codes, halted, idle, and the
`STATUS` register (`10_state.md` rules R22, R23, R32, R35). There is no other flag to compute (R22). -/

namespace Sys2Proof.Machine

/-- The number of an error code, the two bits of `ERR` (R22). -/
def ErrCode.code : ErrCode → BitVec 2
  | .noError => 0
  | .formatError => 1
  | .corruptionError => 2
  | .invariantError => 3

/-- The number of a phase, the two bits of `PHASE` (R23). -/
def Phase.code : Phase → BitVec 2
  | .load => 0
  | .full => 1
  | .drain => 2

/-- `HALTED` is `ERR != 0` (R32). -/
def State.halted (s : State) : Bool := s.err != .noError

/-- `IDLE` is `PHASE = LOAD and WP = 0` (R32). -/
def State.idle (s : State) : Bool := s.phase == .load && s.wp == 0

/-- The ack byte, `zext_8(ERR)` (R73). -/
def State.ack (s : State) : Byte := s.err.code.setWidth 8

/-- The `STATUS` register: `ERR` in bits 1:0, `PHASE` in bits 3:2, the rest 0 (R33, R35). -/
def State.statusWord (s : State) : Word := (0 : BitVec 28) ++ (s.phase.code ++ s.err.code : BitVec 4)

end Sys2Proof.Machine
end

