-- ==== Sys2Proof/Machine/Ops.lean ====
section
/-! DEFINITION. The named operations: reading and writing a line memory (`20_memory.md` rules R50, R51), the updates of the
state, responding (`30_encoding.md` rules R73, R74), raising an error and the halted state (`60_exceptions.md` rules R225 to R227),
and leaving it by reset (R229, `45_system.md` rule R201). -/

namespace Sys2Proof.Machine

/-! Line memory. -/

/-- The byte at an index, if it has a value (R27). -/
def LineMem.read? : LineMem → Nat → Option Byte
  | [], _ => none
  | c :: m, i => if c.1 = i then some c.2 else LineMem.read? m i

/-- Writing one byte at an index: the other indices keep what they had, and the indices stay strictly rising (R11). -/
def LineMem.write : LineMem → Nat → Byte → LineMem
  | [], i, v => [(i, v)]
  | c :: m, i, v =>
    if c.1 < i then c :: LineMem.write m i v
    else if c.1 = i then (i, v) :: m
    else (i, v) :: c :: m

/-- The line memory of `n` bytes whose byte `i` is `f i`. -/
def LineMem.ofFn (n : Nat) (f : Nat → Byte) : LineMem := (List.range n).map (fun i => (i, f i))

/-- `n` bytes of `0x00` (R120 to R122). -/
def LineMem.zeros (n : Nat) : LineMem := LineMem.ofFn n (fun _ => 0)

/-- The canonical form of a line memory: indices strictly rising. -/
abbrev LineMem.wf (m : LineMem) : Prop := m.Pairwise (fun c d => c.1 < d.1)

/-- Exactly the indices 0 to `n - 1` have a value. -/
abbrev LineMem.covers (m : LineMem) (n : Nat) : Prop := m.map Prod.fst = List.range n

/-! Updates of the state, one per group of fields written together. -/

/-- `ACC <- v`. -/
def State.setAcc (s : State) (v : Word) : State := { s with acc := v }

/-- `ERR <- e`. -/
def State.setErr (s : State) (e : ErrCode) : State := { s with err := e }

/-- `SBC <- n`. -/
def State.setSbc (s : State) (n : BitVec 7) : State := { s with sbc := n }

/-- `ROWBYTES <- n`. -/
def State.setRowBytes (s : State) (n : Word) : State := { s with rowBytes := n }

/-- `PREV <- m`. -/
def State.setPrev (s : State) (m : LineMem) : State := { s with prev := m }

/-- `CUR[i] <- b`. -/
def State.writeCur (s : State) (i : Nat) (b : Byte) : State := { s with cur := s.cur.write i b }

/-- `WP <- v`. -/
def State.setWp (s : State) (v : Word) : State := { s with wp := v }

/-- `RP <- v`. -/
def State.setRp (s : State) (v : Word) : State := { s with rp := v }

/-- `PHASE <- p`. -/
def State.setPhase (s : State) (p : Phase) : State := { s with phase := p }

/-- The end of a line: `PHASE <- LOAD`, `WP <- 0`, `RP <- 0`, and no byte of `CUR` has a value (R124). -/
def State.endLine (s : State) : State := { s with phase := .load, wp := 0, rp := 0, cur := [] }

/-- The end of a transform: `CUR <- c`, `PREV <- p`, `PHASE <- DRAIN`, `RP <- 0` (R150, R170). -/
def State.toDrain (s : State) (c p : LineMem) : State := { s with cur := c, prev := p, phase := .drain, rp := 0 }

/-- Every state element takes its reset value (R41, R201); the ports are not state elements (R40). -/
def State.resetEngine (s : State) : State := { s with toEngine := Engine.reset }

/-- The command port after its oldest packet has been taken. -/
def State.setInbox (s : State) (rest : List Packet) : State := { s with inbox := rest }

/-- The reset input released, every packet lost whose response had not been produced when it was asserted (R260). -/
def State.releaseReset (s : State) : State := { s with inbox := [], resetAsserted := false }

/-- The response to a command: the ack is `ERR` as it stands now, the data is `d` (R73, R78). -/
def State.emit (s : State) (d : Word) : State := { s with outbox := s.outbox ++ [⟨s.ack, d⟩] }

/-- The response as the 40-bit packet `{ack, data}` (R73). -/
def Response.packet (r : Response) : Packet := r.ack ++ r.data

/-- The five bytes of a response on a byte-wide transport, the ack first (R74). -/
def Response.bytes (r : Response) : List Byte := packetBytes r.packet

/-! Ending a command. -/

/-- The command ends with `respond(d)` (R11, R73). -/
def respond (d : Word) (s : State) : Result := .next (s.emit d)

/-- The command ends without responding: data 0 (R11, R73). -/
def done (s : State) : Result := respond 0 s

/-- Taking an exception, `raise e` (R226): `ERR <- e`, no other state element changes, the response has the code as its
ack and data 0. The engine is halted from then on (R227). -/
def raise (e : ErrCode) (s : State) : Result := done (s.setErr e)

/-- Leaving the halted state (R229): every element takes its reset value, nothing is restored. -/
def returnFromHalt (s : State) : Result := done s.resetEngine

/-- The last branch of the command cycle (R78): while halted the packet is ignored (R227), otherwise its rule runs. Log entry 15. -/
def whenRunning (s : State) (rule : State → Result) : Result :=
  if s.halted then done s else rule s

/-- The phase test of a filter-unit command: InvariantError out of phase (R127). -/
def inPhase (p : Phase) (s : State) (rule : State → Result) : Result :=
  if s.phase = p then rule s else raise .invariantError s

/-- The idleness test of a configuration command: InvariantError if not idle (R127). -/
def whenIdle (s : State) (rule : State → Result) : Result :=
  if s.idle then rule s else raise .invariantError s

end Sys2Proof.Machine
end

