-- ==== Sys2Proof/Machine/Operands.lean ====
section
/-! DEFINITION. What a command's operands give: the bytes of the two line memories, the derived values `BDIST` and `LLEN`
(`10_state.md` rules R30, R31), the numbered registers (R33 to R35), the filter type of a tag (`30_encoding.md` rule R79) and
the three neighbours of a data byte (`42_defilter.md` rule R140). -/

namespace Sys2Proof.Machine

/-- The byte a line memory shows at an index: its value, or the free value of that index if it has none (U16). -/
def LineMem.byte (m : LineMem) (free : Nat → Byte) (i : Nat) : Byte := (m.read? i).getD (free i)

/-- `CUR[i]` (R11, R27). -/
def State.curByte (s : State) (i : Nat) : Byte := s.cur.byte Config.curNoValue i

/-- `PREV[i]` (R11, R28). -/
def State.prevByte (s : State) (i : Nat) : Byte := s.prev.byte Config.prevNoValue i

/-- `BDIST = max(1, SBC div 8)` (R30). -/
def State.bdist (s : State) : Nat := max 1 (s.sbc.toNat / 8)

/-- `LLEN = ROWBYTES + 1` (R31), a natural number. Log entry 12. -/
def State.llen (s : State) : Nat := s.rowBytes.toNat + 1

/-- The value of register number `r`, for the numbers 0 to 7 that are implemented (R33, R34). -/
def State.reg? (s : State) (r : Byte) : Option Word :=
  match r.toNat with
  | 0 => some 0x50434631
  | 1 => some s.statusWord
  | 2 => some (s.sbc.setWidth 32)
  | 3 => some s.rowBytes
  | 4 => some (BitVec.ofNat 32 s.bdist)
  | 5 => some (BitVec.ofNat 32 s.llen)
  | 6 => some s.wp
  | 7 => some s.rp
  | _ => none

/-- The filter type of a tag byte; 5 to 255 are not filter types (R79). -/
def tagType? (b : Byte) : Option FilterType :=
  match b.toNat with
  | 0 => some .none
  | 1 => some .sub
  | 2 => some .up
  | 3 => some .average
  | 4 => some .paeth
  | _ => none

/-- The tag byte of a filter type (R79). -/
def typeTag : FilterType → Byte
  | .none => 0
  | .sub => 1
  | .up => 2
  | .average => 3
  | .paeth => 4

/-- The byte `d` back from index `x` of a line, 0 when that index is below 1: the neighbour `a` of the line itself, the
neighbour `c` of the previous line (R140). -/
def back (line : Nat → Byte) (d x : Nat) : Byte := if d + 1 ≤ x then line (x - d) else 0

end Sys2Proof.Machine
end

