-- ==== Sys2Proof/Machine/Predictor.lean ====
section
/-! DEFINITION. The five predictors (`42_defilter.md` rules R141 to R148). The predictions are computed in natural numbers and
integers and never reduced modulo 256 before a division or a comparison (R141, `90_conflicts.md` C4). -/

namespace Sys2Proof.Machine

/-- Average: `(a + b) div 2`, the sum not reduced (R145). -/
def predAverage (a b : Byte) : Byte := BitVec.ofNat 8 ((a.toNat + b.toNat) / 2)

/-- Paeth: of `a`, `b`, `c` the one nearest to `p = a + b - c`, ties in the order a, b, c (R146). -/
def predPaeth (a b c : Byte) : Byte :=
  let p : Int := (a.toNat : Int) + b.toNat - c.toNat
  let pa := (p - a.toNat).natAbs
  let pb := (p - b.toNat).natAbs
  let pc := (p - c.toNat).natAbs
  if pa ≤ pb ∧ pa ≤ pc then a
  else if pb ≤ pc then b
  else c

/-- `pred(t, a, b, c)` (R142 to R147). -/
def pred : FilterType → Byte → Byte → Byte → Byte
  | .none, _, _, _ => 0
  | .sub, a, _, _ => a
  | .up, _, b, _ => b
  | .average, a, b, _ => predAverage a b
  | .paeth, a, b, c => predPaeth a b c

/-- The prediction at data index `x` from the line `S` and the previous line `P` at look-back distance `d` (R140, R147). -/
def predAt (t : FilterType) (S P : Nat → Byte) (d x : Nat) : Byte := pred t (back S d x) (P x) (back P d x)

end Sys2Proof.Machine
end

