-- ==== Sys2Proof/Machine/Filter.lean ====
section
/-! DEFINITION. The forward transform with a fixed strategy: FILT.NONE, FILT.SUB, FILT.UP, FILT.AVG, FILT.PAETH
(`43_filter.md` rules R170 to R178). -/

namespace Sys2Proof.Machine

/-- `filter_line(t, O, P, d)` of R170, read at an index: the tag at 0, elsewhere the raw byte less its prediction from the
raw line (R171). Log entry 16. -/
def filterLine (t : FilterType) (O P : Nat → Byte) (d : Nat) : Nat → Byte := fun x =>
  if x = 0 then typeTag t else O x - predAt t O P d x

/-- The end of R170: `CUR` becomes the filtered line, `PREV` the unfiltered one (R172). Log entry 10. -/
def takeFiltered (F : Nat → Byte) (s : State) : State := s.toDrain (LineMem.ofFn s.llen F) s.cur

/-- FILT with the filtered line as a function of the state (R170): the shared checks, snapshot and updates. -/
def filt (line : State → Nat → Byte) (s : State) : Result :=
  whenRunning s fun s => inPhase .full s fun s => done (takeFiltered (line s) s)

/-- The line filtered with a fixed type (R170). -/
def fixedLine (t : FilterType) (s : State) : Nat → Byte := filterLine t s.curByte s.prevByte s.bdist

/-- FILT.NONE (R173). -/
def execFiltNone (s : State) : Result := filt (fixedLine .none) s

/-- FILT.SUB (R174). -/
def execFiltSub (s : State) : Result := filt (fixedLine .sub) s

/-- FILT.UP (R175). -/
def execFiltUp (s : State) : Result := filt (fixedLine .up) s

/-- FILT.AVG (R176). -/
def execFiltAvg (s : State) : Result := filt (fixedLine .average) s

/-- FILT.PAETH (R177). -/
def execFiltPaeth (s : State) : Result := filt (fixedLine .paeth) s

end Sys2Proof.Machine
end

