-- ==== Sys2Proof/Machine/Adaptive.lean ====
section
/-! DEFINITION. The forward transform with the adaptive strategy: FILT.ADAPT (`44_adaptive.md` rules R190 to R195). -/

namespace Sys2Proof.Machine

/-- `sabs(v)`: the magnitude of a byte read as a two's-complement number (R190). -/
def sabs (v : Byte) : Nat := if v.toNat ≤ 127 then v.toNat else 256 - v.toNat

/-- `cost(F)`: the sum of the magnitudes of the `n` data bytes, an exact natural number (R191). -/
def cost (n : Nat) (F : Nat → Byte) : Nat := ((List.range n).map (fun k => sabs (F (k + 1)))).sum

/-- The choice of R193 among types of given costs: the types in the order None, Sub, Up, Average, Paeth, and only a
strictly lower cost displaces an earlier one (R194). -/
def cheapest (k : FilterType → Nat) : FilterType :=
  [FilterType.sub, .up, .average, .paeth].foldl (fun best t => if k t < k best then t else best) .none

/-- The cost of the candidate of type `t` (R192). -/
def candidateCost (s : State) (t : FilterType) : Nat := cost s.rowBytes.toNat (fixedLine t s)

/-- The filter type FILT.ADAPT chooses (R193). -/
def adaptiveType (s : State) : FilterType := cheapest (candidateCost s)

/-- `adaptive_line` (R193). -/
def adaptiveLine (s : State) : Nat → Byte := fixedLine (adaptiveType s) s

/-- FILT.ADAPT (R170, R193). -/
def execFiltAdapt (s : State) : Result := filt adaptiveLine s

end Sys2Proof.Machine
end

