-- ==== Sys2Proof/Machine/Crc.lean ====
section
/-! DEFINITION. The CRC unit: the update function and the commands CRC_INIT, CRC_BYTE, CRC_READ, CRC_CHECK (`40_crc.md`
rules R100 to R105). The constants are the spec's own general knowledge (`93_implementation_defined.md` G1; log entry 7). -/

namespace Sys2Proof.Machine

/-- One shift of the update (R100). -/
def crcShift (acc : Word) : Word :=
  if acc.getLsbD 0 then (acc >>> 1) ^^^ 0xEDB88320 else acc >>> 1

/-- `k` shifts of the update (R100). -/
def crcShifts : Nat → Word → Word
  | 0, acc => acc
  | k + 1, acc => crcShifts k (crcShift acc)

/-- `crc_update(acc, b)`: the byte enters at bits 7:0, then eight shifts (R100). -/
def crcUpdate (acc : Word) (b : Byte) : Word := crcShifts 8 (acc ^^^ b.setWidth 32)

/-- The checksum an accumulator stands for, `ACC xor 0xFFFFFFFF` (R21, R103). -/
def crcFinal (acc : Word) : Word := acc ^^^ 0xFFFFFFFF

/-- `crc32(b1 ... bn)` (R105). -/
def crc32 (bs : List Byte) : Word := crcFinal (bs.foldl crcUpdate 0xFFFFFFFF)

/-- CRC_INIT (R101). -/
def execCrcInit (s : State) : Result := whenRunning s fun s => done (s.setAcc 0xFFFFFFFF)

/-- CRC_BYTE b (R102). -/
def execCrcByte (b : Byte) (s : State) : Result := whenRunning s fun s => done (s.setAcc (crcUpdate s.acc b))

/-- CRC_READ (R103). -/
def execCrcRead (s : State) : Result := whenRunning s fun s => respond (crcFinal s.acc) s

/-- CRC_CHECK v (R104). -/
def execCrcCheck (v : Word) (s : State) : Result :=
  whenRunning s fun s => if crcFinal s.acc = v then done s else raise .corruptionError s

end Sys2Proof.Machine
end

