-- ==== Sys2Proof/Machine/Defilter.lean ====
section
/-! DEFINITION. The inverse transform DEFILT (`42_defilter.md` rules R150 to R158). -/

namespace Sys2Proof.Machine

/-- The loop of R150: `n` data bytes from index `x` on, each rewritten in place, so that the left neighbour is read
already reconstructed. -/
def defiltLoop (t : FilterType) (P : Nat → Byte) (d : Nat) : Nat → Nat → LineMem → LineMem
  | 0, _, m => m
  | n + 1, x, m =>
    let S := m.byte Config.curNoValue
    defiltLoop t P d n (x + 1) (m.write x (S x + predAt t S P d x))

/-- `CUR` after the loop of R150 with filter type `t`: the data indices 1 to `LLEN - 1`, the tag kept. -/
def defiltLine (t : FilterType) (s : State) : LineMem := defiltLoop t s.prevByte s.bdist s.rowBytes.toNat 1 s.cur

/-- The transform of R150 and R151: `CUR` and `PREV` become the reconstructed line. Log entry 10. -/
def reconstruct (t : FilterType) (s : State) : State := s.toDrain (defiltLine t s) (defiltLine t s)

/-- DEFILT (R150): the phase first, then the tag (R228). -/
def execDefilt (s : State) : Result :=
  whenRunning s fun s => inPhase .full s fun s =>
    match tagType? (s.curByte 0) with
    | some t => done (reconstruct t s)
    | none => raise .formatError s

end Sys2Proof.Machine
end

