-- ==== Sys2Proof/Machine/LineTransfer.lean ====
section
/-! DEFINITION. Filter-unit configuration and line transfer: SET_SBC, SET_ROWBYTES, PREV_ZERO, LINE_PUSH, LINE_POP
(`41_line_transfer.md` rules R120 to R124, R127). -/

namespace Sys2Proof.Machine

/-- SET_SBC n (R120). -/
def execSetSbc (n : Word) (s : State) : Result :=
  whenRunning s fun s =>
    if n.toNat < 1 ∨ 64 < n.toNat then raise .invariantError s
    else whenIdle s fun s => done ((s.setSbc (n.setWidth 7)).setPrev (LineMem.zeros s.llen))

/-- SET_ROWBYTES n (R121). -/
def execSetRowbytes (n : Word) (s : State) : Result :=
  whenRunning s fun s =>
    if n.toNat < 1 ∨ Config.MAXROW < n.toNat then raise .invariantError s
    else whenIdle s fun s => done ((s.setRowBytes n).setPrev (LineMem.zeros (n.toNat + 1)))

/-- PREV_ZERO (R122). -/
def execPrevZero (s : State) : Result :=
  whenRunning s fun s => whenIdle s fun s => done (s.setPrev (LineMem.zeros s.llen))

/-- The line after `LINE_PUSH`: `CUR[WP] <- b`, `WP <- WP + 1`, FULL when that was the last byte (R123). -/
def pushByte (b : Byte) (s : State) : State :=
  let s' := (s.writeCur s.wp.toNat b).setWp (s.wp + 1)
  if s.wp.toNat + 1 = s.llen then s'.setPhase .full else s'

/-- LINE_PUSH b (R123). `CUR` has no index at `LLEN` or above (R50); log entry 5. -/
def execLinePush (b : Byte) (s : State) : Result :=
  whenRunning s fun s => inPhase .load s fun s =>
    if s.wp.toNat < s.llen then done (pushByte b s) else .fault (.noSuchLineIndex s.wp.toNat)

/-- The line after `LINE_POP`: `RP <- RP + 1`, back to LOAD when that was the last byte (R124). -/
def popByte (s : State) : State :=
  if s.rp.toNat + 1 = s.llen then s.endLine else s.setRp (s.rp + 1)

/-- LINE_POP (R124). `CUR` has no index at `LLEN` or above (R50); log entry 5. -/
def execLinePop (s : State) : Result :=
  whenRunning s fun s => inPhase .drain s fun s =>
    if s.rp.toNat < s.llen then respond ((s.curByte s.rp.toNat).setWidth 32) (popByte s)
    else .fault (.noSuchLineIndex s.rp.toNat)

end Sys2Proof.Machine
end

