-- ==== Sys2Proof/Machine/System.lean ====
section
/-! DEFINITION. The system commands NOP, RESET, RDREG (`45_system.md` rules R200 to R202), what a packet that stands for no
command does (`30_encoding.md` rule R81), the reset input (`70_reset_and_hazards.md` rule R260), and the engine with no packet
to take (`00_scope.md` rule R6). -/

namespace Sys2Proof.Machine

/-- NOP, halted or not: nothing changes, the ack is `ERR` (R200). -/
def execNop (s : State) : Result := done s

/-- RESET, halted or not (R201). -/
def execReset (s : State) : Result := returnFromHalt s

/-- RDREG r (R202): not halted, an unimplemented number raises InvariantError; halted, it reads 0. -/
def execRdreg (r : Byte) (s : State) : Result :=
  if s.halted then respond ((s.reg? r).getD 0) s
  else
    match s.reg? r with
    | some v => respond v s
    | none => raise .invariantError s

/-- A packet the decoder rejects: ignored while halted, InvariantError otherwise (R78, R81; R170 for a FILT strategy that
is none of the six). Log entry 8. -/
def execRejected (_r : Reject) (s : State) : Result := whenRunning s (raise .invariantError)

/-- The reset input asserted and released: no packet is accepted, those not yet answered are lost without effect, no
response is produced, and the state is the reset state (R260). Log entry 6. -/
def applyResetInput (s : State) : Result := .next s.resetEngine.releaseReset

/-- No packet has been issued: the engine holds its state (R6, R238). Log entry 2. -/
def awaitInput (s : State) : Result := .next s

end Sys2Proof.Machine
end

