-- ==== Sys2Proof/Machine/Dispatch.lean ====
section
/-! DEFINITION. One arm per command (`30_encoding.md` rules R77, R78). -/

namespace Sys2Proof.Machine

-- The meaning of a command in a state, the halted test included (R78).
def exec (i : Instr) (s : State) : Host.Outcome State Fault Refusal :=
  match i with
  | .nop => Sys2Proof.Machine.execNop s
  | .reset => Sys2Proof.Machine.execReset s
  | .rdreg r => Sys2Proof.Machine.execRdreg r s
  | .crcInit => Sys2Proof.Machine.execCrcInit s
  | .crcByte b => Sys2Proof.Machine.execCrcByte b s
  | .crcRead => Sys2Proof.Machine.execCrcRead s
  | .crcCheck v => Sys2Proof.Machine.execCrcCheck v s
  | .setSbc n => Sys2Proof.Machine.execSetSbc n s
  | .setRowbytes n => Sys2Proof.Machine.execSetRowbytes n s
  | .prevZero => Sys2Proof.Machine.execPrevZero s
  | .linePush b => Sys2Proof.Machine.execLinePush b s
  | .linePop => Sys2Proof.Machine.execLinePop s
  | .defilt => Sys2Proof.Machine.execDefilt s
  | .filtNone => Sys2Proof.Machine.execFiltNone s
  | .filtSub => Sys2Proof.Machine.execFiltSub s
  | .filtUp => Sys2Proof.Machine.execFiltUp s
  | .filtAvg => Sys2Proof.Machine.execFiltAvg s
  | .filtPaeth => Sys2Proof.Machine.execFiltPaeth s
  | .filtAdapt => Sys2Proof.Machine.execFiltAdapt s

end Sys2Proof.Machine
end

