-- ==== Sys2Proof/Machine/Step.lean ====
section
/-! DEFINITION. One step: the reset input first (`70_reset_and_hazards.md` rule R260), and otherwise the command cycle
(`30_encoding.md` rule R78), which takes the oldest packet, decodes it and runs it. -/

namespace Sys2Proof.Machine

/-- One step: one use of the reset input, or one packet of the command port (R6, R78, R260). -/
def step (s : State) : Host.Outcome State Fault Refusal :=
  if s.resetAsserted then applyResetInput s
  else
    match s.inbox with
    | [] => awaitInput s
    | p :: rest =>
      match decode p with
      | .ok i => exec i (s.setInbox rest)
      | .error r => execRejected r (s.setInbox rest)

/-- The state with the given table word as the next packet of the command port, the reset input not asserted. Log entries
2 and 9. -/
def State.withFetchWord (s : State) (nbits w : Nat) : State :=
  { s with inbox := tablePacket nbits w :: s.inbox, resetAsserted := false }

end Sys2Proof.Machine
end

