-- ==== Sys2Proof/Machine/Listing.lean ====
section
/-! DEFINITION. Sequences of commands: the state after several commands (`20_memory.md` rule R61) and the
pseudo-instructions of the spec's listings, each with its expansion (`30_encoding.md` rule R85). -/

namespace Sys2Proof.Machine

/-- The commands one after the other, each in the state the one before it left (R61). -/
def runCommands : List Instr → State → Result
  | [], s => .next s
  | i :: is, s =>
    match exec i s with
    | .next t => runCommands is t
    | .fault f => .fault f
    | .refused r => .refused r

/-- The byte a command absorbs into the checksum, if it absorbs one (R102, R105). -/
def absorbedByte? (i : Instr) : Option Byte :=
  match i with
  | .crcByte b => some b
  | _ => none

/-- `CRC_BYTES b1 ... bn` (R85). -/
def crcBytes (bs : List Byte) : List Instr := bs.map Instr.crcByte

/-- `CRC_OF b1 ... bn` (R85). -/
def crcOf (bs : List Byte) : List Instr := .crcInit :: crcBytes bs ++ [.crcRead]

/-- `LINE_PUSHN b0 ... bk` (R85). -/
def linePushN (bs : List Byte) : List Instr := bs.map Instr.linePush

/-- `LINE_POPN k` (R85). -/
def linePopN (k : Nat) : List Instr := List.replicate k .linePop

/-- `DEFILT_LINE b0 ... bk` (R85). -/
def defiltLineN (bs : List Byte) : List Instr := linePushN bs ++ .defilt :: linePopN bs.length

/-- `FILT_LINE s, b0 ... bk` (R85), the FILT command given. -/
def filtLineN (f : Instr) (bs : List Byte) : List Instr := linePushN bs ++ f :: linePopN bs.length

end Sys2Proof.Machine
end

