-- ==== Sys2Proof/Safety.lean ====
section
/-! DEFINITION. What counts as a good state, in the terms the claims use: the state invariants of `10_state.md` rule R29, and
the canonical form of the two line memories. -/

namespace Sys2Proof.Machine

/-- The pointers and `CUR` in each phase (R29): in LOAD exactly `WP < LLEN` bytes have a value; in FULL and DRAIN all
`LLEN` have; in DRAIN the tag is a filter type. -/
def State.PhaseInv (s : State) : Prop :=
  match s.phase with
  | .load => s.wp.toNat < s.llen ∧ s.rp = 0 ∧ s.cur.covers s.wp.toNat
  | .full => s.wp.toNat = s.llen ∧ s.rp = 0 ∧ s.cur.covers s.llen
  | .drain => s.wp.toNat = s.llen ∧ s.rp.toNat < s.llen ∧ s.cur.covers s.llen ∧ (s.curByte 0).toNat ≤ 4

/-- The state invariants (R29). -/
structure State.Inv (s : State) : Prop where
  sbc_pos : 1 ≤ s.sbc.toNat
  sbc_le : s.sbc.toNat ≤ 64
  rowBytes_pos : 1 ≤ s.rowBytes.toNat
  rowBytes_le : s.rowBytes.toNat ≤ Config.MAXROW
  prev_covers : s.prev.covers s.llen
  phase_inv : s.PhaseInv

/-- What a transform does besides `CUR` and `PREV` (R150, R170): `ACC`, `ERR`, `SBC`, `ROWBYTES`, `WP`, the command port
and the reset input are left alone, the unit is in DRAIN with `RP = 0`, and the response has ack 0 and data 0. -/
structure DrainFrame (s t : State) : Prop where
  acc : t.acc = s.acc
  err : t.err = s.err
  sbc : t.sbc = s.sbc
  rowBytes : t.rowBytes = s.rowBytes
  wp : t.wp = s.wp
  inbox : t.inbox = s.inbox
  resetAsserted : t.resetAsserted = s.resetAsserted
  phase : t.phase = .drain
  rp : t.rp = 0
  outbox : t.outbox = s.outbox ++ [⟨0, 0⟩]

/-- The FILT command of a fixed filter type (R77, R80). -/
def fixedFilt : FilterType → Instr
  | .none => .filtNone
  | .sub => .filtSub
  | .up => .filtUp
  | .average => .filtAvg
  | .paeth => .filtPaeth

/-- The six FILT commands (R77). -/
def filtInstrs : List Instr := [.filtNone, .filtSub, .filtUp, .filtAvg, .filtPaeth, .filtAdapt]

/-- Both line memories are in canonical form. -/
def State.MemWf (s : State) : Prop := s.cur.wf ∧ s.prev.wf

/-- A safe answer: a next state that keeps R29. No state that keeps R29 gives another (R275). -/
def SafeResult (r : Result) : Prop :=
  match r with
  | .next t => t.Inv
  | .fault _ => False
  | .refused _ => False

end Sys2Proof.Machine
end

