-- ==== Sys2Proof/Certificates/Slice0/Obligations.lean ====
section
/-! DEFINITION. The statements for the provers, each from the numbered rules of the spec named in its docstring. -/

open Sys2Proof Sys2Proof.Machine

/-! Reset and the whole machine. -/

/-- R41: every state element's reset value, after reset and after the RESET command. -/
def Obligations.ResetStateHasSpecValues : Prop :=
  State.reset.acc = 0xFFFFFFFF ∧ State.reset.err = .noError ∧ State.reset.phase = .load ∧
  State.reset.sbc = 8 ∧ State.reset.rowBytes = 1 ∧ State.reset.wp = 0 ∧ State.reset.rp = 0 ∧
  State.reset.llen = 2 ∧ State.reset.bdist = 1 ∧
  (∀ i, State.reset.cur.read? i = none) ∧
  (∀ i, State.reset.prev.read? i = if i < 2 then some 0 else none) ∧
  ∀ s : State, ∃ t, exec .reset s = .next t ∧ t.toEngine = State.reset.toEngine

/-- R29 holds at reset, and both line memories are in canonical form. -/
def Obligations.ResetMeetsInvariant : Prop := State.reset.Inv ∧ State.reset.MemWf

/-- R29: every step keeps the state invariants. -/
def Obligations.StepKeepsInvariant : Prop :=
  ∀ s t : State, s.Inv → step s = .next t → t.Inv

/-- Every step keeps the canonical form of the line memories, in every state (log entry 4). -/
def Obligations.StepKeepsMemoryCanonical : Prop :=
  ∀ s t : State, s.MemWf → step s = .next t → t.MemWf

/-- R73, R75, R275: from every state that meets R29, the reset input not asserted, every packet is taken and gets exactly
one response, whose ack is `ERR` as it stands afterwards; the data is 0 when the command raised an error, and whenever
the ack is not 0 but for the opcode of RDREG. -/
def Obligations.EveryPacketGetsOneResponse : Prop :=
  ∀ (s : State) (p : Packet) (rest : List Packet), s.Inv → s.resetAsserted = false → s.inbox = p :: rest →
    ∃ t d, step s = .next t ∧ t.inbox = rest ∧ t.outbox = s.outbox ++ [⟨t.err.code.setWidth 8, d⟩] ∧
      (s.err = .noError → t.err ≠ .noError → d = 0) ∧
      (t.err ≠ .noError → p.extractLsb' 32 8 ≠ 0x02#8 → d = 0)

/-- No command is refused, in any state; one that faults does so outside R29. -/
def Obligations.NoCommandIsRefused : Prop :=
  ∀ (i : Instr) (s : State), (∀ r, exec i s ≠ .refused r) ∧ (∀ f, exec i s = .fault f → ¬ s.Inv)

/-- With the reset input not asserted a step takes the oldest packet and runs the command it decodes to (R78), on the state
without that packet. -/
def Obligations.StepRunsDecodedCommand : Prop :=
  ∀ (s : State) (p : Packet) (rest : List Packet) (i : Instr),
    s.resetAsserted = false → s.inbox = p :: rest → decode p = .ok i → step s = exec i { s with inbox := rest }

/-- R6, R238 and log entry 2: with nothing to take the engine holds its state. -/
def Obligations.EmptyPortHoldsState : Prop :=
  ∀ s : State, s.resetAsserted = false → s.inbox = [] → step s = .next s

/-- R260 and log entry 6: the reset input, asserted and released, gives the reset state; every packet that waits for its
response is lost without effect, none is accepted, and no response is produced. -/
def Obligations.ResetInputGivesResetState : Prop :=
  ∀ s : State, s.resetAsserted = true →
    step s = .next { toEngine := Engine.reset, inbox := [], resetAsserted := false, outbox := s.outbox }

/-- R61: packets waiting in the port are run in order, each on the state the one before it left. -/
def Obligations.PortRunsCommandsInOrder : Prop :=
  ∀ (is : List Instr) (s : State) (rest : List Packet),
    s.resetAsserted = false → s.inbox = is.map encode ++ rest →
    Sys2Proof.core.run is.length s = runCommands is { s with inbox := rest }

/-! Errors and the halted state. -/

/-- R81: a packet that is not well-formed raises InvariantError and changes nothing else; halted, it is ignored. The
unassigned opcodes and the reserved bits are the two ways to be ill-formed. -/
def Obligations.IllegalPacketRaisesInvariantError : Prop :=
  (∀ (s : State) (p : Packet) (rest : List Packet),
    s.resetAsserted = false → s.inbox = p :: rest → p.wellFormed = false →
    step s = .next (if s.err = .noError
      then { s with inbox := rest, err := .invariantError, outbox := s.outbox ++ [⟨3, 0⟩] }
      else { s with inbox := rest, outbox := s.outbox ++ [⟨s.err.code.setWidth 8, 0⟩] })) ∧
  (∀ (op : Byte) (imm : Word),
    (mkPacket op imm).wellFormed = false ↔
      (0x03 ≤ op.toNat ∧ op.toNat ≤ 0x0F) ∨ (0x14 ≤ op.toNat ∧ op.toNat ≤ 0x1F) ∨
      (0x23 ≤ op.toNat ∧ op.toNat ≤ 0x2F) ∨ (0x32 ≤ op.toNat ∧ op.toNat ≤ 0x3F) ∨ 0x42 ≤ op.toNat ∨
      (op ∈ ([0x00, 0x01, 0x10, 0x12, 0x22, 0x31, 0x40] : List Byte) ∧ imm ≠ 0) ∨
      (op ∈ ([0x02, 0x11, 0x30, 0x41] : List Byte) ∧ 256 ≤ imm.toNat))

/-- R170, R180: a FILT packet whose strategy byte is 5 to `0xFE` raises InvariantError, whatever the phase. -/
def Obligations.BadStrategyRaisesInvariantError : Prop :=
  ∀ (s : State) (b : Byte) (rest : List Packet),
    s.resetAsserted = false → s.inbox = mkPacket 0x41 (b.setWidth 32) :: rest → s.err = .noError →
    5 ≤ b.toNat → b.toNat ≤ 0xFE →
    step s = .next { s with inbox := rest, err := .invariantError, outbox := s.outbox ++ [⟨3, 0⟩] }

/-- R227: while halted NOP does nothing, RESET resets, a well-formed RDREG reads, and every other packet is ignored. -/
def Obligations.HaltedEngineIgnoresAllElse : Prop :=
  ∀ (s : State) (p : Packet) (rest : List Packet),
    s.resetAsserted = false → s.inbox = p :: rest → s.err ≠ .noError →
    step s = .next (
      if p = 0x0100000000 then { s with toEngine := Engine.reset, inbox := rest, outbox := s.outbox ++ [⟨0, 0⟩] }
      else if p.extractLsb' 8 32 = 0x02000000#32 then
        { s with inbox := rest,
                 outbox := s.outbox ++ [⟨s.err.code.setWidth 8, (s.reg? (p.extractLsb' 0 8)).getD 0⟩] }
      else { s with inbox := rest, outbox := s.outbox ++ [⟨s.err.code.setWidth 8, 0⟩] })

/-- R225, R229: a latched error is never replaced, and only the RESET command or the reset input clears it. -/
def Obligations.LatchedErrorStaysUntilReset : Prop :=
  ∀ s t : State, step s = .next t → s.err ≠ .noError →
    let resets : Prop := s.resetAsserted = true ∨ s.inbox.head? = some 0x0100000000
    (¬resets ∧ t.err = s.err) ∨ (resets ∧ t.toEngine = Engine.reset)

/-- R226: the command that raises has no other effect, and its response has the code as ack and data 0. -/
def Obligations.ErrorEntryIsPrecise : Prop :=
  ∀ s t : State, step s = .next t → s.err = .noError → t.err ≠ .noError →
    t.toEngine = { s.toEngine with err := t.err } ∧ t.inbox = s.inbox.tail ∧
    t.outbox = s.outbox ++ [⟨t.err.code.setWidth 8, 0⟩]

/-- R127, R223: a filter-unit command in a phase that does not accept it raises InvariantError and does nothing else. -/
def Obligations.OutOfPhaseRaisesInvariantError : Prop :=
  ∀ s : State, s.err = .noError →
    let raised : Host.Outcome State Fault Refusal :=
      .next { s with err := .invariantError, outbox := s.outbox ++ [⟨3, 0⟩] }
    (¬(s.phase = .load ∧ s.wp = 0) →
      (∀ n, exec (.setSbc n) s = raised) ∧ (∀ n, exec (.setRowbytes n) s = raised) ∧ exec .prevZero s = raised) ∧
    (s.phase ≠ .load → ∀ b, exec (.linePush b) s = raised) ∧
    (s.phase ≠ .full → exec .defilt s = raised ∧ ∀ f ∈ filtInstrs, exec f s = raised) ∧
    (s.phase ≠ .drain → exec .linePop s = raised)

/-! System commands. -/

/-- R200: NOP changes nothing, halted or not; its ack is `ERR`. -/
def Obligations.NopChangesNothing : Prop :=
  encode .nop = 0x0000000000 ∧
  ∀ s : State, exec .nop s = .next { s with outbox := s.outbox ++ [⟨s.err.code.setWidth 8, 0⟩] }

/-- R201: RESET gives every state element its reset value, in every state; ack and data 0. -/
def Obligations.ResetCommandGivesResetState : Prop :=
  encode .reset = 0x0100000000 ∧
  ∀ s : State, exec .reset s =
    .next { s with toEngine := Engine.reset, outbox := s.outbox ++ [⟨0, 0⟩] }

/-- R33, R34, R202: halted or not, RDREG of a number 0 to 7 responds with that register and changes nothing; of a number
8 to 255 it raises InvariantError when not halted, and reads 0 when halted. -/
def Obligations.RdregReadsEachRegister : Prop :=
  (∀ s : State,
    let reads (r : Byte) (v : Word) : Prop :=
      exec (.rdreg r) s = .next { s with outbox := s.outbox ++ [⟨s.err.code.setWidth 8, v⟩] }
    reads 0 0x50434631 ∧
    reads 1 (BitVec.ofNat 32 (4 * s.phase.code.toNat + s.err.code.toNat)) ∧
    reads 2 (BitVec.ofNat 32 s.sbc.toNat) ∧
    reads 3 s.rowBytes ∧
    reads 4 (BitVec.ofNat 32 (max 1 (s.sbc.toNat / 8))) ∧
    reads 5 (BitVec.ofNat 32 (s.rowBytes.toNat + 1)) ∧
    reads 6 s.wp ∧
    reads 7 s.rp) ∧
  ∀ (s : State) (r : Byte), 8 ≤ r.toNat →
    exec (.rdreg r) s = .next (if s.err = .noError
      then { s with err := .invariantError, outbox := s.outbox ++ [⟨3, 0⟩] }
      else { s with outbox := s.outbox ++ [⟨s.err.code.setWidth 8, 0⟩] })

/-- R35: the fields of `STATUS`, its reserved bits, and that only the values 0 to 11 occur. -/
def Obligations.StatusFields : Prop :=
  ∀ s : State,
    s.statusWord.extractLsb' 0 2 = s.err.code ∧ s.statusWord.extractLsb' 2 2 = s.phase.code ∧
    s.statusWord.extractLsb' 4 28 = 0#28 ∧ s.statusWord.toNat ≤ 0xB

/-! The CRC unit. -/

/-- R101: CRC_INIT sets `ACC` to `0xFFFFFFFF` and changes nothing else. -/
def Obligations.CrcInitSetsAcc : Prop :=
  encode .crcInit = 0x1000000000 ∧
  ∀ s : State, s.err = .noError →
    exec .crcInit s = .next { s with acc := 0xFFFFFFFF, outbox := s.outbox ++ [⟨0, 0⟩] }

/-- R102: CRC_BYTE absorbs its byte into `ACC` and changes nothing else. -/
def Obligations.CrcByteAbsorbsByte : Prop :=
  ∀ b : Byte, encode (.crcByte b) = 0x1100000000 + b.setWidth 40 ∧
    ∀ s : State, s.err = .noError →
      exec (.crcByte b) s = .next { s with acc := crcUpdate s.acc b, outbox := s.outbox ++ [⟨0, 0⟩] }

/-- R103: CRC_READ responds with `ACC xor 0xFFFFFFFF` and changes nothing. -/
def Obligations.CrcReadRespondsComplement : Prop :=
  encode .crcRead = 0x1200000000 ∧
  ∀ s : State, s.err = .noError →
    exec .crcRead s = .next { s with outbox := s.outbox ++ [⟨0, s.acc ^^^ 0xFFFFFFFF⟩] }

/-- R104: CRC_CHECK changes nothing on a match and raises CorruptionError, changing nothing else, exactly on a
mismatch. -/
def Obligations.CrcCheckComparesChecksum : Prop :=
  ∀ v : Word, encode (.crcCheck v) = 0x1300000000 + v.setWidth 40 ∧
    ∀ s : State, s.err = .noError →
      exec (.crcCheck v) s = .next (if s.acc ^^^ 0xFFFFFFFF = v
        then { s with outbox := s.outbox ++ [⟨0, 0⟩] }
        else { s with err := .corruptionError, outbox := s.outbox ++ [⟨2, 0⟩] })

/-- R100: the update is one table look-up by the low byte and a shift by eight. -/
def Obligations.CrcUpdateTableForm : Prop :=
  ∀ (acc : Word) (b : Byte),
    crcUpdate acc b = crcShifts 8 (((acc ^^^ b.setWidth 32) &&& 0xFF)) ^^^ (acc >>> 8)

/-- R2, R100: the check value of the nine bytes "123456789", and the worked example of R100 shift by shift. -/
def Obligations.CrcCheckValue : Prop :=
  crc32 [0x31, 0x32, 0x33, 0x34, 0x35, 0x36, 0x37, 0x38, 0x39] = 0xCBF43926 ∧
  (List.range 9).map (fun k => crcShifts k 0xFFFFFF9E) =
    [0xFFFFFF9E, 0x7FFFFFCF, 0xD2477CC7, 0x849B3D43, 0xAFF51D81, 0xBA420DE0, 0x5D2106F0, 0x2E908378, 0x174841BC] ∧
  crcUpdate 0xFFFFFFFF 0x61 = 0x174841BC

/-- R105: CRC_INIT, one CRC_BYTE per byte, CRC_READ responds with `crc32` of the bytes and leaves the filter unit
alone; and whatever other commands than RESET and CRC_INIT stand between, if no error is raised. -/
def Obligations.ChecksumOfSequence : Prop :=
  (∀ (bs : List Byte) (s : State), s.err = .noError →
    runCommands (crcOf bs) s = .next { s with
      acc := bs.foldl crcUpdate 0xFFFFFFFF,
      outbox := s.outbox ++ (List.replicate (bs.length + 1) ⟨0, 0⟩ ++
        [⟨0, bs.foldl crcUpdate 0xFFFFFFFF ^^^ 0xFFFFFFFF⟩]) }) ∧
  ∀ (cs : List Instr) (s t : State), s.err = .noError → (∀ i ∈ cs, i ≠ .reset ∧ i ≠ .crcInit) →
    runCommands (.crcInit :: cs ++ [.crcRead]) s = .next t → t.err = .noError →
    t.outbox.getLast? = some ⟨0, crc32 (cs.filterMap absorbedByte?)⟩

/-- R107: two byte sequences that differ in exactly one bit have different checksums, and CRC_CHECK of the one after
absorbing the other raises CorruptionError; and so does CRC_CHECK of the right checksum with one bit flipped. -/
def Obligations.SingleBitFlipIsDetected : Prop :=
  (∀ (before after : List Byte) (b : Byte) (k : Nat), k < 8 →
    let good := before ++ b :: after
    let bad := before ++ (b ^^^ (1#8 <<< k)) :: after
    crc32 good ≠ crc32 bad ∧
    ∀ s : State, s.err = .noError → s.acc = bad.foldl crcUpdate 0xFFFFFFFF →
      exec (.crcCheck (crc32 good)) s =
        .next { s with err := .corruptionError, outbox := s.outbox ++ [⟨2, 0⟩] }) ∧
  ∀ (bs : List Byte) (k : Nat) (s : State), k < 32 → s.err = .noError → s.acc = bs.foldl crcUpdate 0xFFFFFFFF →
    exec (.crcCheck (crc32 bs ^^^ (1#32 <<< k))) s =
      .next { s with err := .corruptionError, outbox := s.outbox ++ [⟨2, 0⟩] }

/-- R108: a CRC command is answered in every phase, writes no filter element, and its effect on `ACC` and `ERR` and its
response depend on `ACC` and `ERR` alone. -/
def Obligations.CrcCommandsIgnoreFilterUnit : Prop :=
  ∀ (b : Byte) (v : Word), ∀ i ∈ [Instr.crcInit, .crcByte b, .crcRead, .crcCheck v], ∀ s s' : State,
    s'.acc = s.acc → s'.err = s.err →
    ∃ (a : Word) (e : ErrCode) (r : Response),
      exec i s = .next { s with acc := a, err := e, outbox := s.outbox ++ [r] } ∧
      exec i s' = .next { s' with acc := a, err := e, outbox := s'.outbox ++ [r] }

/-- R61: a filter-unit command neither writes nor reads `ACC`. -/
def Obligations.FilterCommandsIgnoreAcc : Prop :=
  ∀ (n : Word) (b : Byte),
    ∀ i ∈ [Instr.setSbc n, .setRowbytes n, .prevZero, .linePush b, .linePop, .defilt] ++ filtInstrs,
    ∀ (s t : State) (a : Word), exec i s = .next t →
      t.acc = s.acc ∧ exec i { s with acc := a } = .next { t with acc := a }

/-! Configuration and line transfer. -/

/-- R120: SET_SBC with a value 1 to 64 while idle sets `SBC`, zeroes `PREV` and changes nothing else; out of range it
raises InvariantError. -/
def Obligations.SetSbcConfigures : Prop :=
  ∀ n : Word, encode (.setSbc n) = 0x2000000000 + n.setWidth 40 ∧
    ∀ s : State, s.err = .noError →
      (1 ≤ n.toNat → n.toNat ≤ 64 → s.phase = .load → s.wp = 0 →
        ∃ m, exec (.setSbc n) s = .next { s with
            sbc := BitVec.ofNat 7 n.toNat, prev := m, outbox := s.outbox ++ [⟨0, 0⟩] } ∧
          ∀ i, m.read? i = if i < s.rowBytes.toNat + 1 then some 0 else none) ∧
      (n.toNat = 0 ∨ 64 < n.toNat ∨ s.phase ≠ .load ∨ s.wp ≠ 0 →
        exec (.setSbc n) s = .next { s with err := .invariantError, outbox := s.outbox ++ [⟨3, 0⟩] })

/-- R121: SET_ROWBYTES with a value 1 to `MAXROW` while idle sets `ROWBYTES`, makes `PREV` that many bytes and one, all
zero, and changes nothing else; out of range it raises InvariantError. -/
def Obligations.SetRowbytesConfigures : Prop :=
  ∀ n : Word, encode (.setRowbytes n) = 0x2100000000 + n.setWidth 40 ∧
    ∀ s : State, s.err = .noError →
      (1 ≤ n.toNat → n.toNat ≤ Config.MAXROW → s.phase = .load → s.wp = 0 →
        ∃ m, exec (.setRowbytes n) s = .next { s with
            rowBytes := n, prev := m, outbox := s.outbox ++ [⟨0, 0⟩] } ∧
          ∀ i, m.read? i = if i < n.toNat + 1 then some 0 else none) ∧
      (n.toNat = 0 ∨ Config.MAXROW < n.toNat ∨ s.phase ≠ .load ∨ s.wp ≠ 0 →
        exec (.setRowbytes n) s = .next { s with err := .invariantError, outbox := s.outbox ++ [⟨3, 0⟩] })

/-- R7: every value SET_ROWBYTES can accept keeps `LLEN` inside 32 bits. -/
def Obligations.MaxrowBounds : Prop :=
  1 ≤ Config.MAXROW ∧ Config.MAXROW ≤ 2 ^ 32 - 2

/-- R122: PREV_ZERO while idle zeroes `PREV` and changes nothing else; not idle, it raises InvariantError. -/
def Obligations.PrevZeroClearsPrev : Prop :=
  encode .prevZero = 0x2200000000 ∧
  ∀ s : State, s.err = .noError →
    (s.phase = .load → s.wp = 0 →
      ∃ m, exec .prevZero s = .next { s with prev := m, outbox := s.outbox ++ [⟨0, 0⟩] } ∧
        ∀ i, m.read? i = if i < s.rowBytes.toNat + 1 then some 0 else none) ∧
    (s.phase ≠ .load ∨ s.wp ≠ 0 →
      exec .prevZero s = .next { s with err := .invariantError, outbox := s.outbox ++ [⟨3, 0⟩] })

/-- R123: LINE_PUSH in LOAD writes its byte at `CUR[WP]` and no other byte, adds 1 to `WP`, and moves to FULL exactly
when that was the last byte of the line; in FULL or DRAIN it raises InvariantError. -/
def Obligations.LinePushStoresByte : Prop :=
  ∀ b : Byte, encode (.linePush b) = 0x3000000000 + b.setWidth 40 ∧
    ∀ s : State, s.err = .noError →
      (s.phase = .load → s.wp.toNat < s.rowBytes.toNat + 1 →
        ∃ m, exec (.linePush b) s = .next { s with
            cur := m, wp := s.wp + 1,
            phase := if s.wp.toNat + 1 = s.rowBytes.toNat + 1 then .full else .load,
            outbox := s.outbox ++ [⟨0, 0⟩] } ∧
          ∀ i, m.read? i = if i = s.wp.toNat then some b else s.cur.read? i) ∧
      (s.phase ≠ .load →
        exec (.linePush b) s = .next { s with err := .invariantError, outbox := s.outbox ++ [⟨3, 0⟩] })

/-- R124: LINE_POP in DRAIN responds with the byte `CUR[RP]` and adds 1 to `RP`, and after the last byte goes back to
LOAD with both pointers 0 and no byte of `CUR` defined; in LOAD or FULL it raises InvariantError. -/
def Obligations.LinePopReturnsByte : Prop :=
  encode .linePop = 0x3100000000 ∧
  ∀ s : State, s.err = .noError →
    (∀ v, s.phase = .drain → s.rp.toNat < s.rowBytes.toNat + 1 → s.cur.read? s.rp.toNat = some v →
      exec .linePop s = .next (
        if s.rp.toNat + 1 = s.rowBytes.toNat + 1
        then { s with phase := .load, wp := 0, rp := 0, cur := [], outbox := s.outbox ++ [⟨0, v.setWidth 32⟩] }
        else { s with rp := s.rp + 1, outbox := s.outbox ++ [⟨0, v.setWidth 32⟩] })) ∧
    (s.phase ≠ .drain →
      exec .linePop s = .next { s with err := .invariantError, outbox := s.outbox ++ [⟨3, 0⟩] })

/-- R50 and log entry 5: with the pointer at `LLEN` or above, which R29 rules out, a push or a pop in its phase stops
with the fault that names the index. -/
def Obligations.LineIndexOutOfRangeFaults : Prop :=
  ∀ s : State, s.err = .noError →
    (s.phase = .load → s.llen ≤ s.wp.toNat → ∀ b, exec (.linePush b) s = .fault (.noSuchLineIndex s.wp.toNat)) ∧
    (s.phase = .drain → s.llen ≤ s.rp.toNat → exec .linePop s = .fault (.noSuchLineIndex s.rp.toNat))

/-- R127: from an idle unit the `LLEN` pushes of a line move it to FULL with `CUR` holding the bytes in push order. -/
def Obligations.PushesFillTheLine : Prop :=
  ∀ (bs : List Byte) (s : State), s.Inv → s.err = .noError → s.phase = .load → s.wp = 0 → bs.length = s.llen →
    ∃ t, runCommands (linePushN bs) s = .next t ∧ t.phase = .full ∧ t.wp.toNat = s.llen ∧ t.prev = s.prev ∧
      t.outbox = s.outbox ++ List.replicate bs.length ⟨0, 0⟩ ∧
      ∀ i, t.cur.read? i = bs[i]?

/-- R127: from DRAIN with `RP = 0` the `LLEN` pops return the bytes of `CUR` in order and move the unit back to LOAD. -/
def Obligations.PopsDrainTheLine : Prop :=
  ∀ s : State, s.Inv → s.err = .noError → s.phase = .drain → s.rp = 0 →
    ∃ t, runCommands (linePopN s.llen) s = .next t ∧ t.phase = .load ∧ t.wp = 0 ∧ t.rp = 0 ∧ t.prev = s.prev ∧
      t.outbox = s.outbox ++ (List.range s.llen).map (fun i => ⟨0, (s.curByte i).setWidth 32⟩)

/-! The predictors. -/

/-- R142 to R145, R147: None, Sub, Up and Average. -/
def Obligations.SimplePredictors : Prop :=
  ∀ a b c : Byte,
    pred .none a b c = 0 ∧ pred .sub a b c = a ∧ pred .up a b c = b ∧
    (pred .average a b c).toNat = (a.toNat + b.toNat) / 2

/-- R146: Paeth returns whichever of a, b, c is nearest to `a + b - c` in the integers, the first of them in that order
among equals. -/
def Obligations.PaethPicksNearest : Prop :=
  ∀ a b c : Byte,
    let dist (q : Byte) : Nat := ((a.toNat : Int) + b.toNat - c.toNat - q.toNat).natAbs
    let r := pred .paeth a b c
    (r = a ∨ r = b ∨ r = c) ∧
    dist r ≤ dist a ∧ dist r ≤ dist b ∧ dist r ≤ dist c ∧
    (dist a ≤ dist b → dist a ≤ dist c → r = a) ∧
    (dist b < dist a → dist b ≤ dist c → r = b) ∧
    (dist c < dist a → dist c < dist b → r = c)

/-- R30: the look-back distance of every legal `SBC`. -/
def Obligations.BdistTable : Prop :=
  ∀ s : State,
    (1 ≤ s.sbc.toNat → s.sbc.toNat ≤ 15 → s.bdist = 1) ∧
    (16 ≤ s.sbc.toNat → s.sbc.toNat ≤ 23 → s.bdist = 2) ∧
    (24 ≤ s.sbc.toNat → s.sbc.toNat ≤ 31 → s.bdist = 3) ∧
    (32 ≤ s.sbc.toNat → s.sbc.toNat ≤ 39 → s.bdist = 4) ∧
    (40 ≤ s.sbc.toNat → s.sbc.toNat ≤ 47 → s.bdist = 5) ∧
    (48 ≤ s.sbc.toNat → s.sbc.toNat ≤ 55 → s.bdist = 6) ∧
    (56 ≤ s.sbc.toNat → s.sbc.toNat ≤ 63 → s.bdist = 7) ∧
    (s.sbc.toNat = 64 → s.bdist = 8)

/-! The inverse transform. -/

/-- R151 to R156: DEFILT of a full line with a good tag completes; for each tag the reconstructed data bytes, in terms
of the filtered bytes, the reconstructed bytes and `PREV`; the tag is kept, `PREV` becomes the reconstructed line, no
index outside the line is touched, and the rest is as the frame says. -/
def Obligations.DefiltReconstructsLine : Prop :=
  ∀ s : State, s.err = .noError → s.phase = .full → (s.curByte 0).toNat ≤ 4 →
    ∃ t, exec .defilt s = .next t ∧ DrainFrame s t ∧ t.prev = t.cur ∧ t.curByte 0 = s.curByte 0 ∧
      (∀ i, s.llen ≤ i → t.cur.read? i = s.cur.read? i) ∧
      ∀ x, 1 ≤ x → x ≤ s.rowBytes.toNat →
        let left : Byte := if s.bdist < x then t.curByte (x - s.bdist) else 0
        let aboveLeft : Byte := if s.bdist < x then s.prevByte (x - s.bdist) else 0
        ((s.curByte 0).toNat = 0 → t.curByte x = s.curByte x) ∧
        ((s.curByte 0).toNat = 1 → t.curByte x = s.curByte x + left) ∧
        ((s.curByte 0).toNat = 2 → t.curByte x = s.curByte x + s.prevByte x) ∧
        ((s.curByte 0).toNat = 3 →
          t.curByte x = BitVec.ofNat 8 ((s.curByte x).toNat + (left.toNat + (s.prevByte x).toNat) / 2)) ∧
        ((s.curByte 0).toNat = 4 → t.curByte x = s.curByte x + predPaeth left (s.prevByte x) aboveLeft)

/-- R150, R221: DEFILT of a full line whose tag is 5 to 255 raises FormatError and changes nothing else. -/
def Obligations.DefiltBadTagRaisesFormatError : Prop :=
  ∀ s : State, s.err = .noError → s.phase = .full → 5 ≤ (s.curByte 0).toNat →
    exec .defilt s = .next { s with err := .formatError, outbox := s.outbox ++ [⟨1, 0⟩] }

/-- R157: DEFILT keeps `CUR[0]`, and the data bytes it leaves depend on `CUR[0]` only through the filter type and on
`PREV[0]` not at all. -/
def Obligations.DefiltIgnoresPrevTag : Prop :=
  ∀ s u s' u' : State, exec .defilt s = .next s' → exec .defilt u = .next u' →
    s.err = .noError → s.phase = .full → (s.curByte 0).toNat ≤ 4 →
    u.err = .noError → u.phase = .full → u.curByte 0 = s.curByte 0 →
    u.sbc = s.sbc → u.rowBytes = s.rowBytes →
    (∀ x, 1 ≤ x → x ≤ s.rowBytes.toNat → u.curByte x = s.curByte x ∧ u.prevByte x = s.prevByte x) →
    s'.curByte 0 = s.curByte 0 ∧ ∀ x, 1 ≤ x → x ≤ s.rowBytes.toNat → u'.curByte x = s'.curByte x

/-! The forward transform. -/

/-- R172 to R177: each fixed-strategy FILT of a full line completes; the filtered data bytes of each, in terms of the raw
bytes and `PREV`; the tag is the strategy, `PREV` becomes the unfiltered line, and the rest is as the frame says. -/
def Obligations.FiltFiltersLine : Prop :=
  ∀ s : State, s.err = .noError → s.phase = .full →
    let left (x : Nat) : Byte := if s.bdist < x then s.curByte (x - s.bdist) else 0
    let aboveLeft (x : Nat) : Byte := if s.bdist < x then s.prevByte (x - s.bdist) else 0
    let gives (f : Instr) (tag : Byte) (data : Nat → Byte) : Prop :=
      ∃ t, exec f s = .next t ∧ DrainFrame s t ∧ t.prev = s.cur ∧
        ∀ x, t.cur.read? x = if x = 0 then some tag else if x ≤ s.rowBytes.toNat then some (data x) else none
    gives .filtNone 0 (fun x => s.curByte x) ∧
    gives .filtSub 1 (fun x => s.curByte x - left x) ∧
    gives .filtUp 2 (fun x => s.curByte x - s.prevByte x) ∧
    gives .filtAvg 3
      (fun x => s.curByte x - BitVec.ofNat 8 (((left x).toNat + (s.prevByte x).toNat) / 2)) ∧
    gives .filtPaeth 4 (fun x => s.curByte x - predPaeth (left x) (s.prevByte x) (aboveLeft x))

/-- R193, R194: FILT.ADAPT of a full line completes and does exactly what one fixed-strategy FILT does: the one whose
line has the least cost, and among those the smallest type number. -/
def Obligations.FiltAdaptPicksFirstCheapest : Prop :=
  ∀ s : State, s.err = .noError → s.phase = .full →
    ∃ t ty, exec .filtAdapt s = .next t ∧ exec (fixedFilt ty) s = .next t ∧
      ∀ ty' u, exec (fixedFilt ty') s = .next u →
        cost s.rowBytes.toNat t.curByte ≤ cost s.rowBytes.toNat u.curByte ∧
        ((u.curByte 0).toNat < (t.curByte 0).toNat →
          cost s.rowBytes.toNat t.curByte < cost s.rowBytes.toNat u.curByte)

/-- R190: the magnitude of a byte is the absolute value of its two's-complement reading, in the integers. -/
def Obligations.SabsIsAbsoluteValue : Prop :=
  ∀ v : Byte, sabs v = v.toInt.natAbs ∧ sabs v ≤ 128

/-- R191: the cost is the exact sum over the data bytes, the tag left out, and at most 128 for each. -/
def Obligations.CostIsExactSum : Prop :=
  ∀ (n : Nat) (F G : Nat → Byte),
    cost 0 F = 0 ∧ cost (n + 1) F = cost n F + sabs (F (n + 1)) ∧ cost n F ≤ 128 * n ∧
    ((∀ x, 1 ≤ x → x ≤ n → F x = G x) → cost n F = cost n G)

/-- R178: after any FILT the tag is a filter type, for a fixed strategy the strategy's own. -/
def Obligations.FiltLeavesFilterTypeTag : Prop :=
  ∀ s t : State, s.err = .noError → s.phase = .full → ∀ f ∈ filtInstrs, exec f s = .next t →
    (t.curByte 0).toNat ≤ 4 ∧ ∀ ty, f = fixedFilt ty → t.curByte 0 = typeTag ty

/-- R170: the byte pushed at the tag position, and `PREV[0]`, have no effect on the line any FILT leaves. -/
def Obligations.FiltIgnoresTagPositions : Prop :=
  ∀ s u s' u' : State, ∀ f ∈ filtInstrs, exec f s = .next s' → exec f u = .next u' →
    s.err = .noError → s.phase = .full → u.err = .noError → u.phase = .full →
    u.sbc = s.sbc → u.rowBytes = s.rowBytes →
    (∀ x, 1 ≤ x → x ≤ s.rowBytes.toNat → u.curByte x = s.curByte x ∧ u.prevByte x = s.prevByte x) →
    u'.cur = s'.cur

/-- R179: DEFILT undoes every FILT, whatever the configuration and the previous line; and the encoder and the decoder
then hold the same previous data bytes. -/
def Obligations.DefiltUndoesFilt : Prop :=
  ∀ s t u : State, ∀ f ∈ filtInstrs, exec f s = .next t → s.err = .noError → s.phase = .full →
    u.err = .noError → u.phase = .full → u.sbc = s.sbc → u.rowBytes = s.rowBytes →
    (∀ x, x ≤ s.rowBytes.toNat → u.curByte x = t.curByte x) →
    (∀ x, 1 ≤ x → x ≤ s.rowBytes.toNat → u.prevByte x = s.prevByte x) →
    ∃ v, exec .defilt u = .next v ∧ v.curByte 0 = t.curByte 0 ∧
      ∀ x, 1 ≤ x → x ≤ s.rowBytes.toNat →
        v.curByte x = s.curByte x ∧
        ((∃ b, s.cur.read? x = some b) → v.prevByte x = t.prevByte x)

/-- R194: on a first line, `PREV` all zero, FILT.ADAPT never chooses Up or Paeth. -/
def Obligations.FirstLineNeverUpOrPaeth : Prop :=
  ∀ s t : State, s.err = .noError → s.phase = .full → exec .filtAdapt s = .next t →
    (∀ x, 1 ≤ x → x ≤ s.rowBytes.toNat → s.prevByte x = 0) →
    t.curByte 0 ≠ 2 ∧ t.curByte 0 ≠ 4

/-- R196: on a line equal to the previous one FILT.UP and FILT.PAETH leave all-zero data, and FILT.ADAPT chooses Up when
None, Sub and Average cost more than 0. -/
def Obligations.RepeatedLineChoosesUp : Prop :=
  ∀ s : State, s.err = .noError → s.phase = .full →
    (∀ x, 1 ≤ x → x ≤ s.rowBytes.toNat → s.curByte x = s.prevByte x) →
    (∀ f ∈ [Instr.filtUp, .filtPaeth], ∃ t, exec f s = .next t ∧
      ∀ x, 1 ≤ x → x ≤ s.rowBytes.toNat → t.curByte x = 0) ∧
    ((∀ f ∈ [Instr.filtNone, .filtSub, .filtAvg], ∀ u, exec f s = .next u → 0 < cost s.rowBytes.toNat u.curByte) →
      ∃ t, exec .filtAdapt s = .next t ∧ t.curByte 0 = 2 ∧
        ∀ x, 1 ≤ x → x ≤ s.rowBytes.toNat → t.curByte x = 0)

/-! Encoding. -/

/-- Decoding and encoding agree both ways: each command has exactly one packet, and no operand bit is dropped (R77). -/
def Obligations.DecodeEncodeAgree : Prop :=
  ∀ (p : Packet) (i : Instr), decode p = .ok i ↔ encode i = p

/-- R77: a packet is a row's command exactly when `pkt and mask = match`. -/
def Obligations.DecodeFollowsMatchAndMask : Prop :=
  ∀ (p : Packet) (j : Instr),
    (∃ i, decode p = .ok i ∧ i.row = j.row) ↔ p &&& j.row.2 = j.row.1

/-- R76: a packet is well-formed exactly when it decodes to a command or is a FILT packet of no strategy. -/
def Obligations.WellFormedAgreesWithDecoder : Prop :=
  ∀ p : Packet, p.wellFormed = true ↔ (∃ i, decode p = .ok i) ∨ (∃ b, decode p = .error (.filtStrategy b))

/-- R71, R74: the five bytes of a packet, opcode first and the immediate most significant byte first, decode to the
command and leave the bytes after them; and the five bytes of a response, ack first, in the same order. That the bytes
after a packet are left over is the model's choice (log entry 13). -/
def Obligations.ByteFormDecodes : Prop :=
  (∀ (i : Instr) (rest : List Byte),
    packetBytes (encode i) = [opOf (encode i), (immOf (encode i)).extractLsb' 24 8,
      (immOf (encode i)).extractLsb' 16 8, (immOf (encode i)).extractLsb' 8 8, (immOf (encode i)).extractLsb' 0 8] ∧
    decodeBytes (packetBytes (encode i) ++ rest) = .command i rest) ∧
  ∀ r : Response, r.bytes =
    [r.ack, r.data.extractLsb' 24 8, r.data.extractLsb' 16 8, r.data.extractLsb' 8 8, r.data.extractLsb' 0 8]

/-- R77, R80, R84: words written out from the encoding table decode to the commands they stand for. That the decoder
itself rejects the well-formed FILT packet of strategy 5, by name, is the model's choice (log entry 8). -/
def Obligations.WordsOfEachFamilyDecode : Prop :=
  decode 0x0200000005 = .ok (.rdreg 5) ∧
  decode 0x1100000049 = .ok (.crcByte 0x49) ∧
  decode 0x13AE426082 = .ok (.crcCheck 0xAE426082) ∧
  decode 0x2100000006 = .ok (.setRowbytes 6) ∧
  decode 0x30000000DC = .ok (.linePush 0xDC) ∧
  decode 0x4000000000 = .ok .defilt ∧
  decode 0x4100000003 = .ok .filtAvg ∧
  decode 0x41000000FF = .ok .filtAdapt ∧
  decode 0x4100000005 = .error (.filtStrategy 5) ∧
  decode 0x0300000000 = .error (.unassignedOpcode 3)
end

