-- ==== Sys2Proof/Laws/Decode.lean ====
section
/-! SUPPORT. The small lemmas of the packet fields, the opcode numbers and the immediate classes. -/

namespace Sys2Proof

/-- A packet as a number: the opcode times `2^32`, plus the immediate. -/
theorem mkPacket_toNat (op : Byte) (imm : Word) : (mkPacket op imm).toNat = op.toNat * 4294967296 + imm.toNat := by
  simp only [mkPacket, BitVec.toNat_append]
  rw [← Nat.shiftLeft_add_eq_or_of_lt imm.isLt, Nat.shiftLeft_eq]

theorem opOf_toNat (p : Packet) : (opOf p).toNat = p.toNat / 4294967296 := by
  have := p.isLt
  simp only [opOf, BitVec.extractLsb'_toNat, Nat.shiftRight_eq_div_pow]
  omega

theorem immOf_toNat (p : Packet) : (immOf p).toNat = p.toNat % 4294967296 := by
  simp [immOf, BitVec.extractLsb'_toNat]

@[simp] theorem opOf_mkPacket (op : Byte) (imm : Word) : opOf (mkPacket op imm) = op := by
  apply BitVec.eq_of_toNat_eq
  have := imm.isLt
  rw [opOf_toNat, mkPacket_toNat]; omega

@[simp] theorem immOf_mkPacket (op : Byte) (imm : Word) : immOf (mkPacket op imm) = imm := by
  apply BitVec.eq_of_toNat_eq
  have := imm.isLt
  rw [immOf_toNat, mkPacket_toNat]; omega

@[simp] theorem mkPacket_opOf_immOf (p : Packet) : mkPacket (opOf p) (immOf p) = p := by
  apply BitVec.eq_of_toNat_eq
  rw [mkPacket_toNat, opOf_toNat, immOf_toNat]; omega

theorem byteImm_toNat (b : Byte) : (byteImm b).toNat = b.toNat := by
  have := b.isLt
  simp only [byteImm, BitVec.toNat_append]
  simp

theorem byteOperand_toNat (imm : Word) : (byteOperand imm).toNat = imm.toNat % 256 := by
  simp [byteOperand, BitVec.extractLsb'_toNat]

@[simp] theorem byteOperand_byteImm (b : Byte) : byteOperand (byteImm b) = b := by
  apply BitVec.eq_of_toNat_eq
  have := b.isLt
  rw [byteOperand_toNat, byteImm_toNat]; omega

/-- A class B immediate has its reserved bits clear exactly when it is below 256. -/
theorem reservedClear_B_iff (imm : Word) : ImmClass.B.reservedClear imm = true ↔ imm.toNat < 256 := by
  have := imm.isLt
  simp only [ImmClass.reservedClear, beq_iff_eq, ← BitVec.toNat_inj, BitVec.extractLsb'_toNat,
    Nat.shiftRight_eq_div_pow]
  simp; omega

theorem reservedClear_N_iff (imm : Word) : ImmClass.N.reservedClear imm = true ↔ imm = 0 := by
  simp [ImmClass.reservedClear]

@[simp] theorem reservedClear_byteImm (b : Byte) : ImmClass.B.reservedClear (byteImm b) = true := by
  rw [reservedClear_B_iff, byteImm_toNat]; exact b.isLt

theorem byteImm_byteOperand {imm : Word} (h : ImmClass.B.reservedClear imm = true) :
    byteImm (byteOperand imm) = imm := by
  apply BitVec.eq_of_toNat_eq
  have := (reservedClear_B_iff imm).1 h
  rw [byteImm_toNat, byteOperand_toNat]; omega

@[simp] theorem Opcode.ofByte_toByte (o : Opcode) : Opcode.ofByte o.toByte = some o := by
  cases o <;> rfl

theorem Opcode.toByte_of_ofByte {b : Byte} {o : Opcode} (h : Opcode.ofByte b = some o) : o.toByte = b := by
  simpa using List.find?_some h

theorem Opcode.ofByte_eq_none_iff (b : Byte) : Opcode.ofByte b = none ↔ ∀ o : Opcode, o.toByte ≠ b := by
  constructor
  · intro h o ho
    rw [← ho, Opcode.ofByte_toByte] at h
    cases h
  · intro h
    simp only [Opcode.ofByte, List.find?_eq_none]
    intro o _
    simpa using h o

/-- The packet of an opcode and an immediate, decoded. -/
theorem decode_mkPacket (o : Opcode) (imm : Word) (h : o.immClass.reservedClear imm = true) :
    decode (mkPacket o.toByte imm) = decodeOperand o imm := by
  simp [decode, h]

/-- What a decoded packet is made of. -/
theorem decode_ok_cases {p : Packet} {i : Instr} (h : decode p = .ok i) :
    ∃ o, o.toByte = opOf p ∧ o.immClass.reservedClear (immOf p) = true ∧ decodeOperand o (immOf p) = .ok i := by
  unfold decode at h
  split at h
  · cases h
  · next o ho =>
    split at h
    · next hr => exact ⟨o, Opcode.toByte_of_ofByte ho, hr, h⟩
    · cases h

theorem filtOfStrategy_cases {b : Byte} {i : Instr} (h : filtOfStrategy b = some i) :
    (b = 0 ∧ i = .filtNone) ∨ (b = 1 ∧ i = .filtSub) ∨ (b = 2 ∧ i = .filtUp) ∨ (b = 3 ∧ i = .filtAvg) ∨
      (b = 4 ∧ i = .filtPaeth) ∨ (b = 0xFF ∧ i = .filtAdapt) := by
  unfold filtOfStrategy at h
  repeat' split at h
  all_goals first | (cases h; done) | (simp_all)

/-! The three masks of the opcode table. -/

theorem and_maskN (p : Packet) : p &&& 0xFFFFFFFFFF = p :=
  BitVec.and_allOnes

theorem and_maskW (p : Packet) : p &&& 0xFF00000000 = mkPacket (opOf p) 0 := by
  rw [mkPacket, opOf]
  apply BitVec.eq_of_getLsbD_eq; intro i hi
  rw [BitVec.getLsbD_and, BitVec.getLsbD_append]
  by_cases h : i < 32
  · simp only [h]
    interval_cases i <;> simp
  · simp only [h]
    obtain ⟨k, rfl, hk⟩ : ∃ k, i = 32 + k ∧ k < 8 := ⟨i - 32, by omega, by omega⟩
    simp only [BitVec.getLsbD_extractLsb', Nat.add_sub_cancel_left, hk, decide_true, Bool.true_and]
    interval_cases k <;> simp

theorem and_maskB (p : Packet) : p &&& 0xFFFFFFFF00 = mkPacket (opOf p) (immOf p &&& 0xFFFFFF00) := by
  rw [mkPacket, opOf, immOf]
  apply BitVec.eq_of_getLsbD_eq; intro i hi
  rw [BitVec.getLsbD_and, BitVec.getLsbD_append]
  by_cases h : i < 32
  · simp only [h, BitVec.getLsbD_and, BitVec.getLsbD_extractLsb']
    interval_cases i <;> simp
  · simp only [h]
    obtain ⟨k, rfl, hk⟩ : ∃ k, i = 32 + k ∧ k < 8 := ⟨i - 32, by omega, by omega⟩
    simp only [BitVec.getLsbD_extractLsb', Nat.add_sub_cancel_left, hk, decide_true, Bool.true_and]
    interval_cases k <;> simp

theorem mkPacket_inj {op op' : Byte} {imm imm' : Word} (h : mkPacket op imm = mkPacket op' imm') :
    op = op' ∧ imm = imm' :=
  ⟨by rw [← opOf_mkPacket op imm, h, opOf_mkPacket], by rw [← immOf_mkPacket op imm, h, immOf_mkPacket]⟩

/-- A class B immediate has its reserved bits clear exactly when its bits 31:8 are masked to 0. -/
theorem and_immMaskB_eq_zero_iff (imm : Word) :
    imm &&& 0xFFFFFF00 = 0 ↔ ImmClass.B.reservedClear imm = true := by
  simp only [ImmClass.reservedClear, beq_iff_eq]
  constructor
  · intro h
    apply BitVec.eq_of_getLsbD_eq; intro i hi
    have := congrArg (fun v : BitVec 32 => v.getLsbD (8 + i)) h
    simp only [BitVec.getLsbD_and] at this
    rw [BitVec.getLsbD_extractLsb']
    interval_cases i <;> simpa using this
  · intro h
    apply BitVec.eq_of_getLsbD_eq; intro i hi
    rw [BitVec.getLsbD_and]
    by_cases h8 : i < 8
    · interval_cases i <;> simp
    · obtain ⟨k, rfl, hk⟩ : ∃ k, i = 8 + k ∧ k < 24 := ⟨i - 8, by omega, by omega⟩
      have := congrArg (fun v : BitVec 24 => v.getLsbD k) h
      simp only [BitVec.getLsbD_extractLsb', hk, decide_true, Bool.true_and] at this
      rw [this]; simp

end Sys2Proof
end

