-- ==== Sys2Proof/Laws/State.lean ====
section
/-! SUPPORT. The small lemmas of the state: each field after each update, and the derived values after the updates that
do not touch what they are made of. -/

namespace Sys2Proof.Machine

variable (s : State)

/-! `setAcc` -/

@[simp] theorem State.setAcc_acc (v : Word) : (s.setAcc v).acc = v := rfl
@[simp] theorem State.setAcc_err (v : Word) : (s.setAcc v).err = s.err := rfl
@[simp] theorem State.setAcc_phase (v : Word) : (s.setAcc v).phase = s.phase := rfl
@[simp] theorem State.setAcc_sbc (v : Word) : (s.setAcc v).sbc = s.sbc := rfl
@[simp] theorem State.setAcc_rowBytes (v : Word) : (s.setAcc v).rowBytes = s.rowBytes := rfl
@[simp] theorem State.setAcc_wp (v : Word) : (s.setAcc v).wp = s.wp := rfl
@[simp] theorem State.setAcc_rp (v : Word) : (s.setAcc v).rp = s.rp := rfl
@[simp] theorem State.setAcc_cur (v : Word) : (s.setAcc v).cur = s.cur := rfl
@[simp] theorem State.setAcc_prev (v : Word) : (s.setAcc v).prev = s.prev := rfl
@[simp] theorem State.setAcc_inbox (v : Word) : (s.setAcc v).inbox = s.inbox := rfl
@[simp] theorem State.setAcc_resetAsserted (v : Word) : (s.setAcc v).resetAsserted = s.resetAsserted := rfl
@[simp] theorem State.setAcc_outbox (v : Word) : (s.setAcc v).outbox = s.outbox := rfl

/-! `setErr` -/

@[simp] theorem State.setErr_acc (e : ErrCode) : (s.setErr e).acc = s.acc := rfl
@[simp] theorem State.setErr_err (e : ErrCode) : (s.setErr e).err = e := rfl
@[simp] theorem State.setErr_phase (e : ErrCode) : (s.setErr e).phase = s.phase := rfl
@[simp] theorem State.setErr_sbc (e : ErrCode) : (s.setErr e).sbc = s.sbc := rfl
@[simp] theorem State.setErr_rowBytes (e : ErrCode) : (s.setErr e).rowBytes = s.rowBytes := rfl
@[simp] theorem State.setErr_wp (e : ErrCode) : (s.setErr e).wp = s.wp := rfl
@[simp] theorem State.setErr_rp (e : ErrCode) : (s.setErr e).rp = s.rp := rfl
@[simp] theorem State.setErr_cur (e : ErrCode) : (s.setErr e).cur = s.cur := rfl
@[simp] theorem State.setErr_prev (e : ErrCode) : (s.setErr e).prev = s.prev := rfl
@[simp] theorem State.setErr_inbox (e : ErrCode) : (s.setErr e).inbox = s.inbox := rfl
@[simp] theorem State.setErr_resetAsserted (e : ErrCode) : (s.setErr e).resetAsserted = s.resetAsserted := rfl
@[simp] theorem State.setErr_outbox (e : ErrCode) : (s.setErr e).outbox = s.outbox := rfl

/-! `setSbc` -/

@[simp] theorem State.setSbc_acc (n : BitVec 7) : (s.setSbc n).acc = s.acc := rfl
@[simp] theorem State.setSbc_err (n : BitVec 7) : (s.setSbc n).err = s.err := rfl
@[simp] theorem State.setSbc_phase (n : BitVec 7) : (s.setSbc n).phase = s.phase := rfl
@[simp] theorem State.setSbc_sbc (n : BitVec 7) : (s.setSbc n).sbc = n := rfl
@[simp] theorem State.setSbc_rowBytes (n : BitVec 7) : (s.setSbc n).rowBytes = s.rowBytes := rfl
@[simp] theorem State.setSbc_wp (n : BitVec 7) : (s.setSbc n).wp = s.wp := rfl
@[simp] theorem State.setSbc_rp (n : BitVec 7) : (s.setSbc n).rp = s.rp := rfl
@[simp] theorem State.setSbc_cur (n : BitVec 7) : (s.setSbc n).cur = s.cur := rfl
@[simp] theorem State.setSbc_prev (n : BitVec 7) : (s.setSbc n).prev = s.prev := rfl
@[simp] theorem State.setSbc_inbox (n : BitVec 7) : (s.setSbc n).inbox = s.inbox := rfl
@[simp] theorem State.setSbc_resetAsserted (n : BitVec 7) : (s.setSbc n).resetAsserted = s.resetAsserted := rfl
@[simp] theorem State.setSbc_outbox (n : BitVec 7) : (s.setSbc n).outbox = s.outbox := rfl

/-! `setRowBytes` -/

@[simp] theorem State.setRowBytes_acc (n : Word) : (s.setRowBytes n).acc = s.acc := rfl
@[simp] theorem State.setRowBytes_err (n : Word) : (s.setRowBytes n).err = s.err := rfl
@[simp] theorem State.setRowBytes_phase (n : Word) : (s.setRowBytes n).phase = s.phase := rfl
@[simp] theorem State.setRowBytes_sbc (n : Word) : (s.setRowBytes n).sbc = s.sbc := rfl
@[simp] theorem State.setRowBytes_rowBytes (n : Word) : (s.setRowBytes n).rowBytes = n := rfl
@[simp] theorem State.setRowBytes_wp (n : Word) : (s.setRowBytes n).wp = s.wp := rfl
@[simp] theorem State.setRowBytes_rp (n : Word) : (s.setRowBytes n).rp = s.rp := rfl
@[simp] theorem State.setRowBytes_cur (n : Word) : (s.setRowBytes n).cur = s.cur := rfl
@[simp] theorem State.setRowBytes_prev (n : Word) : (s.setRowBytes n).prev = s.prev := rfl
@[simp] theorem State.setRowBytes_inbox (n : Word) : (s.setRowBytes n).inbox = s.inbox := rfl
@[simp] theorem State.setRowBytes_resetAsserted (n : Word) : (s.setRowBytes n).resetAsserted = s.resetAsserted := rfl
@[simp] theorem State.setRowBytes_outbox (n : Word) : (s.setRowBytes n).outbox = s.outbox := rfl

/-! `setPrev` -/

@[simp] theorem State.setPrev_acc (m : LineMem) : (s.setPrev m).acc = s.acc := rfl
@[simp] theorem State.setPrev_err (m : LineMem) : (s.setPrev m).err = s.err := rfl
@[simp] theorem State.setPrev_phase (m : LineMem) : (s.setPrev m).phase = s.phase := rfl
@[simp] theorem State.setPrev_sbc (m : LineMem) : (s.setPrev m).sbc = s.sbc := rfl
@[simp] theorem State.setPrev_rowBytes (m : LineMem) : (s.setPrev m).rowBytes = s.rowBytes := rfl
@[simp] theorem State.setPrev_wp (m : LineMem) : (s.setPrev m).wp = s.wp := rfl
@[simp] theorem State.setPrev_rp (m : LineMem) : (s.setPrev m).rp = s.rp := rfl
@[simp] theorem State.setPrev_cur (m : LineMem) : (s.setPrev m).cur = s.cur := rfl
@[simp] theorem State.setPrev_prev (m : LineMem) : (s.setPrev m).prev = m := rfl
@[simp] theorem State.setPrev_inbox (m : LineMem) : (s.setPrev m).inbox = s.inbox := rfl
@[simp] theorem State.setPrev_resetAsserted (m : LineMem) : (s.setPrev m).resetAsserted = s.resetAsserted := rfl
@[simp] theorem State.setPrev_outbox (m : LineMem) : (s.setPrev m).outbox = s.outbox := rfl

/-! `writeCur` -/

@[simp] theorem State.writeCur_acc (i : Nat) (b : Byte) : (s.writeCur i b).acc = s.acc := rfl
@[simp] theorem State.writeCur_err (i : Nat) (b : Byte) : (s.writeCur i b).err = s.err := rfl
@[simp] theorem State.writeCur_phase (i : Nat) (b : Byte) : (s.writeCur i b).phase = s.phase := rfl
@[simp] theorem State.writeCur_sbc (i : Nat) (b : Byte) : (s.writeCur i b).sbc = s.sbc := rfl
@[simp] theorem State.writeCur_rowBytes (i : Nat) (b : Byte) : (s.writeCur i b).rowBytes = s.rowBytes := rfl
@[simp] theorem State.writeCur_wp (i : Nat) (b : Byte) : (s.writeCur i b).wp = s.wp := rfl
@[simp] theorem State.writeCur_rp (i : Nat) (b : Byte) : (s.writeCur i b).rp = s.rp := rfl
@[simp] theorem State.writeCur_cur (i : Nat) (b : Byte) : (s.writeCur i b).cur = LineMem.write s.cur i b := rfl
@[simp] theorem State.writeCur_prev (i : Nat) (b : Byte) : (s.writeCur i b).prev = s.prev := rfl
@[simp] theorem State.writeCur_inbox (i : Nat) (b : Byte) : (s.writeCur i b).inbox = s.inbox := rfl
@[simp] theorem State.writeCur_resetAsserted (i : Nat) (b : Byte) : (s.writeCur i b).resetAsserted = s.resetAsserted := rfl
@[simp] theorem State.writeCur_outbox (i : Nat) (b : Byte) : (s.writeCur i b).outbox = s.outbox := rfl

/-! `setWp` -/

@[simp] theorem State.setWp_acc (v : Word) : (s.setWp v).acc = s.acc := rfl
@[simp] theorem State.setWp_err (v : Word) : (s.setWp v).err = s.err := rfl
@[simp] theorem State.setWp_phase (v : Word) : (s.setWp v).phase = s.phase := rfl
@[simp] theorem State.setWp_sbc (v : Word) : (s.setWp v).sbc = s.sbc := rfl
@[simp] theorem State.setWp_rowBytes (v : Word) : (s.setWp v).rowBytes = s.rowBytes := rfl
@[simp] theorem State.setWp_wp (v : Word) : (s.setWp v).wp = v := rfl
@[simp] theorem State.setWp_rp (v : Word) : (s.setWp v).rp = s.rp := rfl
@[simp] theorem State.setWp_cur (v : Word) : (s.setWp v).cur = s.cur := rfl
@[simp] theorem State.setWp_prev (v : Word) : (s.setWp v).prev = s.prev := rfl
@[simp] theorem State.setWp_inbox (v : Word) : (s.setWp v).inbox = s.inbox := rfl
@[simp] theorem State.setWp_resetAsserted (v : Word) : (s.setWp v).resetAsserted = s.resetAsserted := rfl
@[simp] theorem State.setWp_outbox (v : Word) : (s.setWp v).outbox = s.outbox := rfl

/-! `setRp` -/

@[simp] theorem State.setRp_acc (v : Word) : (s.setRp v).acc = s.acc := rfl
@[simp] theorem State.setRp_err (v : Word) : (s.setRp v).err = s.err := rfl
@[simp] theorem State.setRp_phase (v : Word) : (s.setRp v).phase = s.phase := rfl
@[simp] theorem State.setRp_sbc (v : Word) : (s.setRp v).sbc = s.sbc := rfl
@[simp] theorem State.setRp_rowBytes (v : Word) : (s.setRp v).rowBytes = s.rowBytes := rfl
@[simp] theorem State.setRp_wp (v : Word) : (s.setRp v).wp = s.wp := rfl
@[simp] theorem State.setRp_rp (v : Word) : (s.setRp v).rp = v := rfl
@[simp] theorem State.setRp_cur (v : Word) : (s.setRp v).cur = s.cur := rfl
@[simp] theorem State.setRp_prev (v : Word) : (s.setRp v).prev = s.prev := rfl
@[simp] theorem State.setRp_inbox (v : Word) : (s.setRp v).inbox = s.inbox := rfl
@[simp] theorem State.setRp_resetAsserted (v : Word) : (s.setRp v).resetAsserted = s.resetAsserted := rfl
@[simp] theorem State.setRp_outbox (v : Word) : (s.setRp v).outbox = s.outbox := rfl

/-! `setPhase` -/

@[simp] theorem State.setPhase_acc (p : Phase) : (s.setPhase p).acc = s.acc := rfl
@[simp] theorem State.setPhase_err (p : Phase) : (s.setPhase p).err = s.err := rfl
@[simp] theorem State.setPhase_phase (p : Phase) : (s.setPhase p).phase = p := rfl
@[simp] theorem State.setPhase_sbc (p : Phase) : (s.setPhase p).sbc = s.sbc := rfl
@[simp] theorem State.setPhase_rowBytes (p : Phase) : (s.setPhase p).rowBytes = s.rowBytes := rfl
@[simp] theorem State.setPhase_wp (p : Phase) : (s.setPhase p).wp = s.wp := rfl
@[simp] theorem State.setPhase_rp (p : Phase) : (s.setPhase p).rp = s.rp := rfl
@[simp] theorem State.setPhase_cur (p : Phase) : (s.setPhase p).cur = s.cur := rfl
@[simp] theorem State.setPhase_prev (p : Phase) : (s.setPhase p).prev = s.prev := rfl
@[simp] theorem State.setPhase_inbox (p : Phase) : (s.setPhase p).inbox = s.inbox := rfl
@[simp] theorem State.setPhase_resetAsserted (p : Phase) : (s.setPhase p).resetAsserted = s.resetAsserted := rfl
@[simp] theorem State.setPhase_outbox (p : Phase) : (s.setPhase p).outbox = s.outbox := rfl

/-! `endLine` -/

@[simp] theorem State.endLine_acc : s.endLine.acc = s.acc := rfl
@[simp] theorem State.endLine_err : s.endLine.err = s.err := rfl
@[simp] theorem State.endLine_phase : s.endLine.phase = .load := rfl
@[simp] theorem State.endLine_sbc : s.endLine.sbc = s.sbc := rfl
@[simp] theorem State.endLine_rowBytes : s.endLine.rowBytes = s.rowBytes := rfl
@[simp] theorem State.endLine_wp : s.endLine.wp = 0 := rfl
@[simp] theorem State.endLine_rp : s.endLine.rp = 0 := rfl
@[simp] theorem State.endLine_cur : s.endLine.cur = [] := rfl
@[simp] theorem State.endLine_prev : s.endLine.prev = s.prev := rfl
@[simp] theorem State.endLine_inbox : s.endLine.inbox = s.inbox := rfl
@[simp] theorem State.endLine_resetAsserted : s.endLine.resetAsserted = s.resetAsserted := rfl
@[simp] theorem State.endLine_outbox : s.endLine.outbox = s.outbox := rfl

/-! `toDrain` -/

@[simp] theorem State.toDrain_acc (c p : LineMem) : (s.toDrain c p).acc = s.acc := rfl
@[simp] theorem State.toDrain_err (c p : LineMem) : (s.toDrain c p).err = s.err := rfl
@[simp] theorem State.toDrain_phase (c p : LineMem) : (s.toDrain c p).phase = .drain := rfl
@[simp] theorem State.toDrain_sbc (c p : LineMem) : (s.toDrain c p).sbc = s.sbc := rfl
@[simp] theorem State.toDrain_rowBytes (c p : LineMem) : (s.toDrain c p).rowBytes = s.rowBytes := rfl
@[simp] theorem State.toDrain_wp (c p : LineMem) : (s.toDrain c p).wp = s.wp := rfl
@[simp] theorem State.toDrain_rp (c p : LineMem) : (s.toDrain c p).rp = 0 := rfl
@[simp] theorem State.toDrain_cur (c p : LineMem) : (s.toDrain c p).cur = c := rfl
@[simp] theorem State.toDrain_prev (c p : LineMem) : (s.toDrain c p).prev = p := rfl
@[simp] theorem State.toDrain_inbox (c p : LineMem) : (s.toDrain c p).inbox = s.inbox := rfl
@[simp] theorem State.toDrain_resetAsserted (c p : LineMem) : (s.toDrain c p).resetAsserted = s.resetAsserted := rfl
@[simp] theorem State.toDrain_outbox (c p : LineMem) : (s.toDrain c p).outbox = s.outbox := rfl

/-! `resetEngine` -/

@[simp] theorem State.resetEngine_acc : s.resetEngine.acc = 0xFFFFFFFF := rfl
@[simp] theorem State.resetEngine_err : s.resetEngine.err = .noError := rfl
@[simp] theorem State.resetEngine_phase : s.resetEngine.phase = .load := rfl
@[simp] theorem State.resetEngine_sbc : s.resetEngine.sbc = 8 := rfl
@[simp] theorem State.resetEngine_rowBytes : s.resetEngine.rowBytes = 1 := rfl
@[simp] theorem State.resetEngine_wp : s.resetEngine.wp = 0 := rfl
@[simp] theorem State.resetEngine_rp : s.resetEngine.rp = 0 := rfl
@[simp] theorem State.resetEngine_cur : s.resetEngine.cur = [] := rfl
@[simp] theorem State.resetEngine_prev : s.resetEngine.prev = [(0, 0), (1, 0)] := rfl
@[simp] theorem State.resetEngine_inbox : s.resetEngine.inbox = s.inbox := rfl
@[simp] theorem State.resetEngine_resetAsserted : s.resetEngine.resetAsserted = s.resetAsserted := rfl
@[simp] theorem State.resetEngine_outbox : s.resetEngine.outbox = s.outbox := rfl

/-! `setInbox` -/

@[simp] theorem State.setInbox_acc (r : List Packet) : (s.setInbox r).acc = s.acc := rfl
@[simp] theorem State.setInbox_err (r : List Packet) : (s.setInbox r).err = s.err := rfl
@[simp] theorem State.setInbox_phase (r : List Packet) : (s.setInbox r).phase = s.phase := rfl
@[simp] theorem State.setInbox_sbc (r : List Packet) : (s.setInbox r).sbc = s.sbc := rfl
@[simp] theorem State.setInbox_rowBytes (r : List Packet) : (s.setInbox r).rowBytes = s.rowBytes := rfl
@[simp] theorem State.setInbox_wp (r : List Packet) : (s.setInbox r).wp = s.wp := rfl
@[simp] theorem State.setInbox_rp (r : List Packet) : (s.setInbox r).rp = s.rp := rfl
@[simp] theorem State.setInbox_cur (r : List Packet) : (s.setInbox r).cur = s.cur := rfl
@[simp] theorem State.setInbox_prev (r : List Packet) : (s.setInbox r).prev = s.prev := rfl
@[simp] theorem State.setInbox_inbox (r : List Packet) : (s.setInbox r).inbox = r := rfl
@[simp] theorem State.setInbox_resetAsserted (r : List Packet) : (s.setInbox r).resetAsserted = s.resetAsserted := rfl
@[simp] theorem State.setInbox_outbox (r : List Packet) : (s.setInbox r).outbox = s.outbox := rfl

/-! `releaseReset` -/

@[simp] theorem State.releaseReset_acc : s.releaseReset.acc = s.acc := rfl
@[simp] theorem State.releaseReset_err : s.releaseReset.err = s.err := rfl
@[simp] theorem State.releaseReset_phase : s.releaseReset.phase = s.phase := rfl
@[simp] theorem State.releaseReset_sbc : s.releaseReset.sbc = s.sbc := rfl
@[simp] theorem State.releaseReset_rowBytes : s.releaseReset.rowBytes = s.rowBytes := rfl
@[simp] theorem State.releaseReset_wp : s.releaseReset.wp = s.wp := rfl
@[simp] theorem State.releaseReset_rp : s.releaseReset.rp = s.rp := rfl
@[simp] theorem State.releaseReset_cur : s.releaseReset.cur = s.cur := rfl
@[simp] theorem State.releaseReset_prev : s.releaseReset.prev = s.prev := rfl
@[simp] theorem State.releaseReset_inbox : s.releaseReset.inbox = [] := rfl
@[simp] theorem State.releaseReset_resetAsserted : s.releaseReset.resetAsserted = false := rfl
@[simp] theorem State.releaseReset_outbox : s.releaseReset.outbox = s.outbox := rfl

/-! `emit` -/

@[simp] theorem State.emit_acc (d : Word) : (s.emit d).acc = s.acc := rfl
@[simp] theorem State.emit_err (d : Word) : (s.emit d).err = s.err := rfl
@[simp] theorem State.emit_phase (d : Word) : (s.emit d).phase = s.phase := rfl
@[simp] theorem State.emit_sbc (d : Word) : (s.emit d).sbc = s.sbc := rfl
@[simp] theorem State.emit_rowBytes (d : Word) : (s.emit d).rowBytes = s.rowBytes := rfl
@[simp] theorem State.emit_wp (d : Word) : (s.emit d).wp = s.wp := rfl
@[simp] theorem State.emit_rp (d : Word) : (s.emit d).rp = s.rp := rfl
@[simp] theorem State.emit_cur (d : Word) : (s.emit d).cur = s.cur := rfl
@[simp] theorem State.emit_prev (d : Word) : (s.emit d).prev = s.prev := rfl
@[simp] theorem State.emit_inbox (d : Word) : (s.emit d).inbox = s.inbox := rfl
@[simp] theorem State.emit_resetAsserted (d : Word) : (s.emit d).resetAsserted = s.resetAsserted := rfl
@[simp] theorem State.emit_outbox (d : Word) : (s.emit d).outbox = s.outbox ++ [⟨s.ack, d⟩] := rfl

/-! The engine as a whole, and derived values. -/

@[simp] theorem State.emit_toEngine (d : Word) : (s.emit d).toEngine = s.toEngine := rfl
@[simp] theorem State.setInbox_toEngine (r : List Packet) : (s.setInbox r).toEngine = s.toEngine := rfl
@[simp] theorem State.releaseReset_toEngine : s.releaseReset.toEngine = s.toEngine := rfl
@[simp] theorem State.resetEngine_toEngine : s.resetEngine.toEngine = Engine.reset := rfl
@[simp] theorem State.setAcc_halted (v : Word) : (s.setAcc v).halted = s.halted := rfl
@[simp] theorem State.setAcc_idle (v : Word) : (s.setAcc v).idle = s.idle := rfl
@[simp] theorem State.setAcc_ack (v : Word) : (s.setAcc v).ack = s.ack := rfl
@[simp] theorem State.setAcc_statusWord (v : Word) : (s.setAcc v).statusWord = s.statusWord := rfl
@[simp] theorem State.setAcc_bdist (v : Word) : (s.setAcc v).bdist = s.bdist := rfl
@[simp] theorem State.setAcc_llen (v : Word) : (s.setAcc v).llen = s.llen := rfl
@[simp] theorem State.setAcc_curByte (v : Word) : (s.setAcc v).curByte = s.curByte := rfl
@[simp] theorem State.setAcc_prevByte (v : Word) : (s.setAcc v).prevByte = s.prevByte := rfl
@[simp] theorem State.setErr_idle (e : ErrCode) : (s.setErr e).idle = s.idle := rfl
@[simp] theorem State.setErr_bdist (e : ErrCode) : (s.setErr e).bdist = s.bdist := rfl
@[simp] theorem State.setErr_llen (e : ErrCode) : (s.setErr e).llen = s.llen := rfl
@[simp] theorem State.setErr_curByte (e : ErrCode) : (s.setErr e).curByte = s.curByte := rfl
@[simp] theorem State.setErr_prevByte (e : ErrCode) : (s.setErr e).prevByte = s.prevByte := rfl
@[simp] theorem State.setSbc_halted (n : BitVec 7) : (s.setSbc n).halted = s.halted := rfl
@[simp] theorem State.setSbc_idle (n : BitVec 7) : (s.setSbc n).idle = s.idle := rfl
@[simp] theorem State.setSbc_ack (n : BitVec 7) : (s.setSbc n).ack = s.ack := rfl
@[simp] theorem State.setSbc_statusWord (n : BitVec 7) : (s.setSbc n).statusWord = s.statusWord := rfl
@[simp] theorem State.setSbc_llen (n : BitVec 7) : (s.setSbc n).llen = s.llen := rfl
@[simp] theorem State.setSbc_curByte (n : BitVec 7) : (s.setSbc n).curByte = s.curByte := rfl
@[simp] theorem State.setSbc_prevByte (n : BitVec 7) : (s.setSbc n).prevByte = s.prevByte := rfl
@[simp] theorem State.setRowBytes_halted (n : Word) : (s.setRowBytes n).halted = s.halted := rfl
@[simp] theorem State.setRowBytes_idle (n : Word) : (s.setRowBytes n).idle = s.idle := rfl
@[simp] theorem State.setRowBytes_ack (n : Word) : (s.setRowBytes n).ack = s.ack := rfl
@[simp] theorem State.setRowBytes_statusWord (n : Word) : (s.setRowBytes n).statusWord = s.statusWord := rfl
@[simp] theorem State.setRowBytes_bdist (n : Word) : (s.setRowBytes n).bdist = s.bdist := rfl
@[simp] theorem State.setRowBytes_curByte (n : Word) : (s.setRowBytes n).curByte = s.curByte := rfl
@[simp] theorem State.setRowBytes_prevByte (n : Word) : (s.setRowBytes n).prevByte = s.prevByte := rfl
@[simp] theorem State.setPrev_halted (m : LineMem) : (s.setPrev m).halted = s.halted := rfl
@[simp] theorem State.setPrev_idle (m : LineMem) : (s.setPrev m).idle = s.idle := rfl
@[simp] theorem State.setPrev_ack (m : LineMem) : (s.setPrev m).ack = s.ack := rfl
@[simp] theorem State.setPrev_statusWord (m : LineMem) : (s.setPrev m).statusWord = s.statusWord := rfl
@[simp] theorem State.setPrev_bdist (m : LineMem) : (s.setPrev m).bdist = s.bdist := rfl
@[simp] theorem State.setPrev_llen (m : LineMem) : (s.setPrev m).llen = s.llen := rfl
@[simp] theorem State.setPrev_curByte (m : LineMem) : (s.setPrev m).curByte = s.curByte := rfl
@[simp] theorem State.writeCur_halted (i : Nat) (b : Byte) : (s.writeCur i b).halted = s.halted := rfl
@[simp] theorem State.writeCur_idle (i : Nat) (b : Byte) : (s.writeCur i b).idle = s.idle := rfl
@[simp] theorem State.writeCur_ack (i : Nat) (b : Byte) : (s.writeCur i b).ack = s.ack := rfl
@[simp] theorem State.writeCur_statusWord (i : Nat) (b : Byte) : (s.writeCur i b).statusWord = s.statusWord := rfl
@[simp] theorem State.writeCur_bdist (i : Nat) (b : Byte) : (s.writeCur i b).bdist = s.bdist := rfl
@[simp] theorem State.writeCur_llen (i : Nat) (b : Byte) : (s.writeCur i b).llen = s.llen := rfl
@[simp] theorem State.writeCur_prevByte (i : Nat) (b : Byte) : (s.writeCur i b).prevByte = s.prevByte := rfl
@[simp] theorem State.setWp_halted (v : Word) : (s.setWp v).halted = s.halted := rfl
@[simp] theorem State.setWp_ack (v : Word) : (s.setWp v).ack = s.ack := rfl
@[simp] theorem State.setWp_statusWord (v : Word) : (s.setWp v).statusWord = s.statusWord := rfl
@[simp] theorem State.setWp_bdist (v : Word) : (s.setWp v).bdist = s.bdist := rfl
@[simp] theorem State.setWp_llen (v : Word) : (s.setWp v).llen = s.llen := rfl
@[simp] theorem State.setWp_curByte (v : Word) : (s.setWp v).curByte = s.curByte := rfl
@[simp] theorem State.setWp_prevByte (v : Word) : (s.setWp v).prevByte = s.prevByte := rfl
@[simp] theorem State.setRp_halted (v : Word) : (s.setRp v).halted = s.halted := rfl
@[simp] theorem State.setRp_idle (v : Word) : (s.setRp v).idle = s.idle := rfl
@[simp] theorem State.setRp_ack (v : Word) : (s.setRp v).ack = s.ack := rfl
@[simp] theorem State.setRp_statusWord (v : Word) : (s.setRp v).statusWord = s.statusWord := rfl
@[simp] theorem State.setRp_bdist (v : Word) : (s.setRp v).bdist = s.bdist := rfl
@[simp] theorem State.setRp_llen (v : Word) : (s.setRp v).llen = s.llen := rfl
@[simp] theorem State.setRp_curByte (v : Word) : (s.setRp v).curByte = s.curByte := rfl
@[simp] theorem State.setRp_prevByte (v : Word) : (s.setRp v).prevByte = s.prevByte := rfl
@[simp] theorem State.setPhase_halted (p : Phase) : (s.setPhase p).halted = s.halted := rfl
@[simp] theorem State.setPhase_ack (p : Phase) : (s.setPhase p).ack = s.ack := rfl
@[simp] theorem State.setPhase_bdist (p : Phase) : (s.setPhase p).bdist = s.bdist := rfl
@[simp] theorem State.setPhase_llen (p : Phase) : (s.setPhase p).llen = s.llen := rfl
@[simp] theorem State.setPhase_curByte (p : Phase) : (s.setPhase p).curByte = s.curByte := rfl
@[simp] theorem State.setPhase_prevByte (p : Phase) : (s.setPhase p).prevByte = s.prevByte := rfl
@[simp] theorem State.endLine_halted : s.endLine.halted = s.halted := rfl
@[simp] theorem State.endLine_ack : s.endLine.ack = s.ack := rfl
@[simp] theorem State.endLine_bdist : s.endLine.bdist = s.bdist := rfl
@[simp] theorem State.endLine_llen : s.endLine.llen = s.llen := rfl
@[simp] theorem State.endLine_prevByte : s.endLine.prevByte = s.prevByte := rfl
@[simp] theorem State.toDrain_halted (c p : LineMem) : (s.toDrain c p).halted = s.halted := rfl
@[simp] theorem State.toDrain_ack (c p : LineMem) : (s.toDrain c p).ack = s.ack := rfl
@[simp] theorem State.toDrain_bdist (c p : LineMem) : (s.toDrain c p).bdist = s.bdist := rfl
@[simp] theorem State.toDrain_llen (c p : LineMem) : (s.toDrain c p).llen = s.llen := rfl
@[simp] theorem State.releaseReset_halted : s.releaseReset.halted = s.halted := rfl
@[simp] theorem State.releaseReset_idle : s.releaseReset.idle = s.idle := rfl
@[simp] theorem State.releaseReset_ack : s.releaseReset.ack = s.ack := rfl
@[simp] theorem State.releaseReset_statusWord : s.releaseReset.statusWord = s.statusWord := rfl
@[simp] theorem State.releaseReset_bdist : s.releaseReset.bdist = s.bdist := rfl
@[simp] theorem State.releaseReset_llen : s.releaseReset.llen = s.llen := rfl
@[simp] theorem State.releaseReset_curByte : s.releaseReset.curByte = s.curByte := rfl
@[simp] theorem State.releaseReset_prevByte : s.releaseReset.prevByte = s.prevByte := rfl
@[simp] theorem State.setInbox_halted (r : List Packet) : (s.setInbox r).halted = s.halted := rfl
@[simp] theorem State.setInbox_idle (r : List Packet) : (s.setInbox r).idle = s.idle := rfl
@[simp] theorem State.setInbox_ack (r : List Packet) : (s.setInbox r).ack = s.ack := rfl
@[simp] theorem State.setInbox_statusWord (r : List Packet) : (s.setInbox r).statusWord = s.statusWord := rfl
@[simp] theorem State.setInbox_bdist (r : List Packet) : (s.setInbox r).bdist = s.bdist := rfl
@[simp] theorem State.setInbox_llen (r : List Packet) : (s.setInbox r).llen = s.llen := rfl
@[simp] theorem State.setInbox_curByte (r : List Packet) : (s.setInbox r).curByte = s.curByte := rfl
@[simp] theorem State.setInbox_prevByte (r : List Packet) : (s.setInbox r).prevByte = s.prevByte := rfl
@[simp] theorem State.emit_halted (d : Word) : (s.emit d).halted = s.halted := rfl
@[simp] theorem State.emit_idle (d : Word) : (s.emit d).idle = s.idle := rfl
@[simp] theorem State.emit_ack (d : Word) : (s.emit d).ack = s.ack := rfl
@[simp] theorem State.emit_statusWord (d : Word) : (s.emit d).statusWord = s.statusWord := rfl
@[simp] theorem State.emit_bdist (d : Word) : (s.emit d).bdist = s.bdist := rfl
@[simp] theorem State.emit_llen (d : Word) : (s.emit d).llen = s.llen := rfl
@[simp] theorem State.emit_curByte (d : Word) : (s.emit d).curByte = s.curByte := rfl
@[simp] theorem State.emit_prevByte (d : Word) : (s.emit d).prevByte = s.prevByte := rfl

@[simp] theorem State.setRowBytes_llen (n : Word) : (s.setRowBytes n).llen = n.toNat + 1 := rfl
@[simp] theorem State.resetEngine_llen : s.resetEngine.llen = 2 := rfl
@[simp] theorem State.resetEngine_halted : s.resetEngine.halted = false := rfl

theorem State.halted_eq_false_iff : s.halted = false ↔ s.err = .noError := by
  simp [State.halted]

theorem State.halted_eq_true_iff : s.halted = true ↔ s.err ≠ .noError := by
  simp [State.halted]

theorem State.idle_eq_true_iff : s.idle = true ↔ s.phase = .load ∧ s.wp = 0 := by
  simp [State.idle]

theorem State.ack_of_noError {s : State} (h : s.err = .noError) : s.ack = 0 := by
  simp [State.ack, h, ErrCode.code]

end Sys2Proof.Machine
end

