-- ==== Sys2Proof/Laws/Mem.lean ====
section
/-! SUPPORT. The laws of a line memory: a read after a write, the canonical form, and which indices have a value. -/

namespace Sys2Proof.Machine

/-! Reading. -/

theorem LineMem.read?_write (m : LineMem) (i j : Nat) (v : Byte) :
    LineMem.read? (LineMem.write m i v) j = if i = j then some v else LineMem.read? m j := by
  induction m with
  | nil => simp [LineMem.write, LineMem.read?]
  | cons c m ih =>
    simp only [LineMem.write]
    split
    · next h =>
      simp only [LineMem.read?, ih]
      by_cases hj : i = j
      · subst hj; simp [show c.1 ≠ i by omega]
      · simp [hj]
    · split
      · next h1 h2 =>
        subst h2
        by_cases hj : c.1 = j <;> simp [LineMem.read?, hj]
      · next h1 h2 => by_cases hj : i = j <;> simp [LineMem.read?, hj]

theorem LineMem.read?_eq_none_of_not_mem {m : LineMem} {i : Nat} (h : i ∉ m.map Prod.fst) :
    LineMem.read? m i = none := by
  induction m with
  | nil => rfl
  | cons c m ih =>
    simp only [List.map_cons, List.mem_cons, not_or] at h
    simp [LineMem.read?, Ne.symm h.1, ih h.2]

theorem LineMem.exists_read?_of_mem {m : LineMem} {i : Nat} (h : i ∈ m.map Prod.fst) :
    ∃ b, LineMem.read? m i = some b := by
  induction m with
  | nil => simp at h
  | cons c m ih =>
    simp only [List.map_cons, List.mem_cons] at h
    by_cases hc : c.1 = i
    · exact ⟨c.2, by simp [LineMem.read?, hc]⟩
    · obtain ⟨b, hb⟩ := ih (h.resolve_left (Ne.symm hc))
      exact ⟨b, by simp [LineMem.read?, hc, hb]⟩

theorem LineMem.read?_map_range' (f : Nat → Byte) (i : Nat) : ∀ (n k : Nat),
    LineMem.read? ((List.range' k n).map (fun i => (i, f i))) i =
      if k ≤ i ∧ i < k + n then some (f i) else none
  | 0, k => by simp [LineMem.read?]
  | n + 1, k => by
    simp only [List.range'_succ, List.map_cons, LineMem.read?, LineMem.read?_map_range' f i n (k + 1)]
    by_cases h : k = i
    · subst h; simp
    · simp only [h, if_false]
      exact if_congr (by omega) rfl rfl

theorem LineMem.read?_ofFn (n : Nat) (f : Nat → Byte) (i : Nat) :
    LineMem.read? (LineMem.ofFn n f) i = if i < n then some (f i) else none := by
  simp [LineMem.ofFn, List.range_eq_range', LineMem.read?_map_range']

theorem LineMem.byte_write (m : LineMem) (free : Nat → Byte) (i j : Nat) (v : Byte) :
    LineMem.byte (LineMem.write m i v) free j = if i = j then v else LineMem.byte m free j := by
  simp only [LineMem.byte, LineMem.read?_write]
  split <;> rfl

theorem LineMem.byte_ofFn {n : Nat} {f : Nat → Byte} {i : Nat} (free : Nat → Byte) (h : i < n) :
    LineMem.byte (LineMem.ofFn n f) free i = f i := by
  simp [LineMem.byte, LineMem.read?_ofFn, h]

/-! The canonical form. -/

theorem LineMem.wf_ofFn (n : Nat) (f : Nat → Byte) : LineMem.wf (LineMem.ofFn n f) := by
  simpa [LineMem.wf, LineMem.ofFn, List.pairwise_map] using List.pairwise_lt_range

theorem LineMem.mem_write {m : LineMem} {i : Nat} {v : Byte} {c : Host.Cell}
    (h : c ∈ LineMem.write m i v) : c = (i, v) ∨ c ∈ m := by
  induction m with
  | nil => simpa [LineMem.write] using h
  | cons d m ih =>
    simp only [LineMem.write] at h
    split at h
    · rcases List.mem_cons.1 h with h | h
      · simp [h]
      · rcases ih h with h | h <;> simp [h]
    · split at h
      · rcases List.mem_cons.1 h with h | h <;> simp [h]
      · rcases List.mem_cons.1 h with h | h
        · simp [h]
        · exact .inr h

theorem LineMem.wf_write {m : LineMem} (h : LineMem.wf m) (i : Nat) (v : Byte) :
    LineMem.wf (LineMem.write m i v) := by
  induction m with
  | nil => simp [LineMem.write]
  | cons c m ih =>
    obtain ⟨hc, hm⟩ := List.pairwise_cons.1 h
    simp only [LineMem.write]
    split
    · next hlt =>
      refine List.pairwise_cons.2 ⟨fun d hd => ?_, ih hm⟩
      rcases LineMem.mem_write hd with rfl | hd
      · exact hlt
      · exact hc d hd
    · split
      · next h1 h2 => exact List.pairwise_cons.2 ⟨fun d hd => by have := hc d hd; simp only; omega, hm⟩
      · next h1 h2 =>
        refine List.pairwise_cons.2 ⟨fun d hd => ?_, h⟩
        rcases List.mem_cons.1 hd with rfl | hd
        · simp only; omega
        · have := hc d hd; simp only; omega

/-! Which indices have a value. -/

theorem LineMem.wf_of_covers {m : LineMem} {n : Nat} (h : LineMem.covers m n) : LineMem.wf m := by
  have := List.pairwise_lt_range (n := n)
  rw [← h, List.pairwise_map] at this
  exact this

theorem LineMem.covers_ofFn (n : Nat) (f : Nat → Byte) : LineMem.covers (LineMem.ofFn n f) n := by
  simp [LineMem.covers, LineMem.ofFn, Function.comp_def]

theorem LineMem.exists_read?_of_covers {m : LineMem} {n i : Nat} (h : LineMem.covers m n) (hi : i < n) :
    ∃ b, LineMem.read? m i = some b :=
  LineMem.exists_read?_of_mem (by rw [h]; simpa using hi)

theorem LineMem.fst_write_of_mem {m : LineMem} (h : LineMem.wf m) {i : Nat} (v : Byte)
    (hi : i ∈ m.map Prod.fst) : (LineMem.write m i v).map Prod.fst = m.map Prod.fst := by
  induction m with
  | nil => simp at hi
  | cons c m ih =>
    obtain ⟨hc, hm⟩ := List.pairwise_cons.1 h
    simp only [LineMem.write]
    split
    · next hlt =>
      simp only [List.map_cons, List.mem_cons] at hi ⊢
      rw [ih hm (hi.resolve_left (by omega))]
    · split
      · next h1 h2 => simp [h2]
      · next h1 h2 =>
        simp only [List.map_cons, List.mem_cons, List.mem_map] at hi
        rcases hi with hi | ⟨d, hd, rfl⟩
        · omega
        · have := hc d hd; omega

theorem LineMem.covers_write {m : LineMem} {n i : Nat} (h : LineMem.covers m n) (v : Byte) (hi : i < n) :
    LineMem.covers (LineMem.write m i v) n := by
  rw [LineMem.covers, LineMem.fst_write_of_mem (LineMem.wf_of_covers h) v (by rw [h]; simpa using hi), h]

theorem LineMem.write_of_all_lt {m : LineMem} {i : Nat} (v : Byte) (h : ∀ c ∈ m, c.1 < i) :
    LineMem.write m i v = m ++ [(i, v)] := by
  induction m with
  | nil => rfl
  | cons c m ih =>
    simp [LineMem.write, h c (by simp), ih (fun d hd => h d (by simp [hd]))]

theorem LineMem.covers_push {m : LineMem} {n : Nat} (h : LineMem.covers m n) (v : Byte) :
    LineMem.covers (LineMem.write m n v) (n + 1) := by
  have hlt : ∀ c ∈ m, c.1 < n := fun c hc => by
    have : c.1 ∈ m.map Prod.fst := List.mem_map_of_mem hc
    rw [h] at this; simpa using this
  rw [LineMem.write_of_all_lt v hlt]
  simp only [LineMem.covers] at h
  simp [LineMem.covers, h, List.range_succ]

/-! The loop of DEFILT. -/

theorem defiltLoop_wf {t : FilterType} {P : Nat → Byte} {d : Nat} : ∀ {n x : Nat} {m : LineMem},
    LineMem.wf m → LineMem.wf (defiltLoop t P d n x m)
  | 0, _, _, h => h
  | _ + 1, x, m, h => by
    rw [defiltLoop]
    exact defiltLoop_wf (LineMem.wf_write h _ _)

theorem defiltLoop_covers {t : FilterType} {P : Nat → Byte} {d k : Nat} : ∀ {n x : Nat} {m : LineMem},
    LineMem.covers m k → x + n ≤ k → LineMem.covers (defiltLoop t P d n x m) k
  | 0, _, _, h, _ => h
  | _ + 1, x, m, h, hk => by
    rw [defiltLoop]
    exact defiltLoop_covers (LineMem.covers_write h _ (by omega)) (by omega)

/-- The loop leaves every index outside its range alone. -/
theorem defiltLoop_byte_outside {t : FilterType} {P : Nat → Byte} {d : Nat} (free : Nat → Byte) {i : Nat} :
    ∀ {n x : Nat} {m : LineMem}, (i < x ∨ x + n ≤ i) →
      LineMem.byte (defiltLoop t P d n x m) free i = LineMem.byte m free i
  | 0, _, _, _ => rfl
  | n + 1, x, m, h => by
    rw [defiltLoop, defiltLoop_byte_outside free (by omega), LineMem.byte_write, if_neg (by omega)]

/-- Inside its range the loop adds to each byte the prediction from the line it leaves behind. -/
theorem defiltLoop_byte_inside {t : FilterType} {P : Nat → Byte} {d : Nat} (hd : 1 ≤ d) {i : Nat} :
    ∀ {n x : Nat} {m : LineMem}, x ≤ i → i < x + n →
      LineMem.byte (defiltLoop t P d n x m) Config.curNoValue i =
        LineMem.byte m Config.curNoValue i +
          predAt t (LineMem.byte (defiltLoop t P d n x m) Config.curNoValue) P d i
  | 0, _, _, h1, h2 => by omega
  | n + 1, x, m, h1, h2 => by
    rw [defiltLoop]
    by_cases hx : x = i
    · subst hx
      rw [defiltLoop_byte_outside _ (by omega), LineMem.byte_write, if_pos rfl]
      congr 1
      simp only [predAt, back]
      split
      · rw [defiltLoop_byte_outside _ (by omega), LineMem.byte_write, if_neg (by omega)]
      · rfl
    · rw [defiltLoop_byte_inside hd (by omega) (by omega), LineMem.byte_write, if_neg hx]

theorem State.bdist_pos (s : State) : 1 ≤ s.bdist := Nat.le_max_left _ _

end Sys2Proof.Machine
end

