-- ==== Sys2Proof/Laws/Ops.lean ====
section
/-! SUPPORT. One lemma per shared operation, saying everything it can answer; later proofs cite these and unfold none of
the operations. -/

namespace Sys2Proof.Machine

variable {s t : State} {e : ErrCode} {d : Word} {p : Phase} {rule : State → Result}

@[simp] theorem respond_eq (d : Word) (s : State) : respond d s = .next (s.emit d) := rfl
@[simp] theorem done_eq (s : State) : done s = .next (s.emit 0) := rfl
@[simp] theorem raise_eq (e : ErrCode) (s : State) : raise e s = .next ((s.setErr e).emit 0) := rfl
@[simp] theorem returnFromHalt_eq (s : State) : returnFromHalt s = .next (s.resetEngine.emit 0) := rfl

theorem whenRunning_of_running (h : s.err = .noError) : whenRunning s rule = rule s := by
  simp [whenRunning, State.halted, h]

theorem whenRunning_of_halted (h : s.err ≠ .noError) : whenRunning s rule = .next (s.emit 0) := by
  simp [whenRunning, State.halted, h]

theorem whenRunning_next_iff :
    whenRunning s rule = .next t ↔
      (s.err ≠ .noError ∧ t = s.emit 0) ∨ (s.err = .noError ∧ rule s = .next t) := by
  by_cases h : s.err = .noError
  · simp [whenRunning_of_running h, h]
  · simp [whenRunning_of_halted h, h, eq_comm]

theorem inPhase_of_eq (h : s.phase = p) : inPhase p s rule = rule s := by simp [inPhase, h]

theorem inPhase_of_ne (h : s.phase ≠ p) : inPhase p s rule = raise .invariantError s := by simp [inPhase, h]

theorem inPhase_next_iff :
    inPhase p s rule = .next t ↔
      (s.phase ≠ p ∧ t = (s.setErr .invariantError).emit 0) ∨ (s.phase = p ∧ rule s = .next t) := by
  by_cases h : s.phase = p
  · simp [inPhase_of_eq h, h]
  · simp [inPhase_of_ne h, h, eq_comm]

theorem whenIdle_of_idle (h : s.phase = .load) (hw : s.wp = 0) : whenIdle s rule = rule s := by
  simp [whenIdle, State.idle, h, hw]

theorem whenIdle_of_busy (h : ¬(s.phase = .load ∧ s.wp = 0)) : whenIdle s rule = raise .invariantError s := by
  rw [whenIdle, if_neg (by rwa [State.idle_eq_true_iff])]

theorem whenIdle_next_iff :
    whenIdle s rule = .next t ↔
      (¬(s.phase = .load ∧ s.wp = 0) ∧ t = (s.setErr .invariantError).emit 0) ∨
        ((s.phase = .load ∧ s.wp = 0) ∧ rule s = .next t) := by
  by_cases h : s.phase = .load ∧ s.wp = 0
  · simp only [whenIdle_of_idle h.1 h.2, h, not_true, false_and, false_or, true_and, and_self]
  · rw [whenIdle_of_busy h]
    simp only [h, raise_eq, Host.Outcome.next.injEq, not_false_eq_true, true_and, false_and, or_false]
    exact eq_comm

/-! The registers, the tag and the filter types. -/

/-- Exactly the register numbers 0 to 7 are implemented. -/
theorem State.reg?_eq_none_iff (s : State) (r : Byte) : s.reg? r = none ↔ 8 ≤ r.toNat := by
  unfold State.reg?
  split <;> simp_all
  omega

/-- Exactly the tags 0 to 4 are filter types. -/
theorem tagType?_eq_none_iff (b : Byte) : tagType? b = none ↔ 5 ≤ b.toNat := by
  unfold tagType?
  split <;> simp_all
  omega

theorem tagType?_typeTag (t : FilterType) : tagType? (typeTag t) = some t := by
  cases t <;> rfl

theorem typeTag_of_tagType? {b : Byte} {t : FilterType} (h : tagType? b = some t) : typeTag t = b := by
  unfold tagType? at h
  split at h <;> first | (cases h; apply BitVec.eq_of_toNat_eq; simp_all [typeTag]) | cases h

theorem typeTag_toNat_le (t : FilterType) : (typeTag t).toNat ≤ 4 := by cases t <;> decide

theorem State.bdist_le {s : State} (h : s.sbc.toNat ≤ 64) : s.bdist ≤ 8 := by
  simp only [State.bdist]; omega

theorem Config.one_le_MAXROW : 1 ≤ Config.MAXROW := by unfold Config.MAXROW; omega

theorem Config.MAXROW_le : Config.MAXROW ≤ 2 ^ 32 - 2 := by unfold Config.MAXROW; omega

end Sys2Proof.Machine
end

