-- ==== Sys2Proof/Laws/Exec.lean ====
section
/-! SUPPORT. One lemma per command: everything it can do when it answers a next state. The halted case, the error cases and
the effect are the alternatives, each with its guard. And one lemma for the step. -/

namespace Sys2Proof.Machine

variable {s t : State}

theorem execRdreg_cases {r : Byte} (h : execRdreg r s = .next t) :
    (s.err ≠ .noError ∧ t = s.emit ((s.reg? r).getD 0)) ∨
      (s.err = .noError ∧ ∃ v, s.reg? r = some v ∧ t = s.emit v) ∨
      (s.err = .noError ∧ s.reg? r = none ∧ t = (s.setErr .invariantError).emit 0) := by
  unfold execRdreg at h
  split at h
  · next hh => exact .inl ⟨State.halted_eq_true_iff s |>.1 hh, by simpa using h.symm⟩
  · next hh =>
    have he := State.halted_eq_false_iff s |>.1 (by simpa using hh)
    split at h
    · next v hv => exact .inr (.inl ⟨he, v, hv, by simpa using h.symm⟩)
    · next hv => exact .inr (.inr ⟨he, hv, by simpa using h.symm⟩)

theorem execRejected_cases {r : Reject} (h : execRejected r s = .next t) :
    (s.err ≠ .noError ∧ t = s.emit 0) ∨ (s.err = .noError ∧ t = (s.setErr .invariantError).emit 0) := by
  rcases whenRunning_next_iff.1 h with h | ⟨he, h⟩
  · exact .inl h
  · exact .inr ⟨he, by simpa using h.symm⟩

theorem execCrcInit_cases (h : execCrcInit s = .next t) :
    (s.err ≠ .noError ∧ t = s.emit 0) ∨ (s.err = .noError ∧ t = (s.setAcc 0xFFFFFFFF).emit 0) := by
  rcases whenRunning_next_iff.1 h with h | ⟨he, h⟩
  · exact .inl h
  · exact .inr ⟨he, by simpa using h.symm⟩

theorem execCrcByte_cases {b : Byte} (h : execCrcByte b s = .next t) :
    (s.err ≠ .noError ∧ t = s.emit 0) ∨
      (s.err = .noError ∧ t = (s.setAcc (crcUpdate s.acc b)).emit 0) := by
  rcases whenRunning_next_iff.1 h with h | ⟨he, h⟩
  · exact .inl h
  · exact .inr ⟨he, by simpa using h.symm⟩

theorem execCrcRead_cases (h : execCrcRead s = .next t) :
    (s.err ≠ .noError ∧ t = s.emit 0) ∨ (s.err = .noError ∧ t = s.emit (crcFinal s.acc)) := by
  rcases whenRunning_next_iff.1 h with h | ⟨he, h⟩
  · exact .inl h
  · exact .inr ⟨he, by simpa using h.symm⟩

theorem execCrcCheck_cases {v : Word} (h : execCrcCheck v s = .next t) :
    (s.err ≠ .noError ∧ t = s.emit 0) ∨
      (s.err = .noError ∧ crcFinal s.acc = v ∧ t = s.emit 0) ∨
      (s.err = .noError ∧ crcFinal s.acc ≠ v ∧ t = (s.setErr .corruptionError).emit 0) := by
  rcases whenRunning_next_iff.1 h with h | ⟨he, h⟩
  · exact .inl h
  · split at h
    · next hv => exact .inr (.inl ⟨he, hv, by simpa using h.symm⟩)
    · next hv => exact .inr (.inr ⟨he, hv, by simpa using h.symm⟩)

theorem execSetSbc_cases {n : Word} (h : execSetSbc n s = .next t) :
    (s.err ≠ .noError ∧ t = s.emit 0) ∨
      (s.err = .noError ∧ (n.toNat < 1 ∨ 64 < n.toNat ∨ ¬(s.phase = .load ∧ s.wp = 0)) ∧
        t = (s.setErr .invariantError).emit 0) ∨
      (s.err = .noError ∧ 1 ≤ n.toNat ∧ n.toNat ≤ 64 ∧ s.phase = .load ∧ s.wp = 0 ∧
        t = ((s.setSbc (n.setWidth 7)).setPrev (LineMem.zeros s.llen)).emit 0) := by
  rcases whenRunning_next_iff.1 h with h | ⟨he, h⟩
  · exact .inl h
  · split at h
    · exact .inr (.inl ⟨he, by omega, by simpa using h.symm⟩)
    · rcases whenIdle_next_iff.1 h with ⟨hb, ht⟩ | ⟨⟨hp, hw⟩, h⟩
      · exact .inr (.inl ⟨he, .inr (.inr hb), ht⟩)
      · exact .inr (.inr ⟨he, by omega, by omega, hp, hw, by simpa using h.symm⟩)

theorem execSetRowbytes_cases {n : Word} (h : execSetRowbytes n s = .next t) :
    (s.err ≠ .noError ∧ t = s.emit 0) ∨
      (s.err = .noError ∧ (n.toNat < 1 ∨ Config.MAXROW < n.toNat ∨ ¬(s.phase = .load ∧ s.wp = 0)) ∧
        t = (s.setErr .invariantError).emit 0) ∨
      (s.err = .noError ∧ 1 ≤ n.toNat ∧ n.toNat ≤ Config.MAXROW ∧ s.phase = .load ∧ s.wp = 0 ∧
        t = ((s.setRowBytes n).setPrev (LineMem.zeros (n.toNat + 1))).emit 0) := by
  rcases whenRunning_next_iff.1 h with h | ⟨he, h⟩
  · exact .inl h
  · split at h
    · exact .inr (.inl ⟨he, by omega, by simpa using h.symm⟩)
    · rcases whenIdle_next_iff.1 h with ⟨hb, ht⟩ | ⟨⟨hp, hw⟩, h⟩
      · exact .inr (.inl ⟨he, .inr (.inr hb), ht⟩)
      · exact .inr (.inr ⟨he, by omega, by omega, hp, hw, by simpa using h.symm⟩)

theorem execPrevZero_cases (h : execPrevZero s = .next t) :
    (s.err ≠ .noError ∧ t = s.emit 0) ∨
      (s.err = .noError ∧ ¬(s.phase = .load ∧ s.wp = 0) ∧ t = (s.setErr .invariantError).emit 0) ∨
      (s.err = .noError ∧ s.phase = .load ∧ s.wp = 0 ∧ t = (s.setPrev (LineMem.zeros s.llen)).emit 0) := by
  rcases whenRunning_next_iff.1 h with h | ⟨he, h⟩
  · exact .inl h
  · rcases whenIdle_next_iff.1 h with ⟨hb, ht⟩ | ⟨⟨hp, hw⟩, h⟩
    · exact .inr (.inl ⟨he, hb, ht⟩)
    · exact .inr (.inr ⟨he, hp, hw, by simpa using h.symm⟩)

theorem execLinePush_cases {b : Byte} (h : execLinePush b s = .next t) :
    (s.err ≠ .noError ∧ t = s.emit 0) ∨
      (s.err = .noError ∧ s.phase ≠ .load ∧ t = (s.setErr .invariantError).emit 0) ∨
      (s.err = .noError ∧ s.phase = .load ∧ s.wp.toNat < s.llen ∧ t = (pushByte b s).emit 0) := by
  rcases whenRunning_next_iff.1 h with h | ⟨he, h⟩
  · exact .inl h
  · rcases inPhase_next_iff.1 h with ⟨hp, ht⟩ | ⟨hp, h⟩
    · exact .inr (.inl ⟨he, hp, ht⟩)
    · split at h
      · next hw => exact .inr (.inr ⟨he, hp, hw, by simpa using h.symm⟩)
      · cases h

theorem execLinePop_cases (h : execLinePop s = .next t) :
    (s.err ≠ .noError ∧ t = s.emit 0) ∨
      (s.err = .noError ∧ s.phase ≠ .drain ∧ t = (s.setErr .invariantError).emit 0) ∨
      (s.err = .noError ∧ s.phase = .drain ∧ s.rp.toNat < s.llen ∧
        t = (popByte s).emit ((s.curByte s.rp.toNat).setWidth 32)) := by
  rcases whenRunning_next_iff.1 h with h | ⟨he, h⟩
  · exact .inl h
  · rcases inPhase_next_iff.1 h with ⟨hp, ht⟩ | ⟨hp, h⟩
    · exact .inr (.inl ⟨he, hp, ht⟩)
    · split at h
      · next hw => exact .inr (.inr ⟨he, hp, hw, by simpa using h.symm⟩)
      · cases h

theorem execDefilt_cases (h : execDefilt s = .next t) :
    (s.err ≠ .noError ∧ t = s.emit 0) ∨
      (s.err = .noError ∧ s.phase ≠ .full ∧ t = (s.setErr .invariantError).emit 0) ∨
      (s.err = .noError ∧ s.phase = .full ∧ tagType? (s.curByte 0) = none ∧
        t = (s.setErr .formatError).emit 0) ∨
      (s.err = .noError ∧ s.phase = .full ∧ ∃ ty, tagType? (s.curByte 0) = some ty ∧
        t = (reconstruct ty s).emit 0) := by
  rcases whenRunning_next_iff.1 h with h | ⟨he, h⟩
  · exact .inl h
  · rcases inPhase_next_iff.1 h with ⟨hp, ht⟩ | ⟨hp, h⟩
    · exact .inr (.inl ⟨he, hp, ht⟩)
    · split at h
      · next ty hty => exact .inr (.inr (.inr ⟨he, hp, ty, hty, by simpa using h.symm⟩))
      · next hty => exact .inr (.inr (.inl ⟨he, hp, hty, by simpa using h.symm⟩))

/-- The six FILT commands are `filt` of a line. -/
theorem filt_cases {line : State → Nat → Byte} (h : filt line s = .next t) :
    (s.err ≠ .noError ∧ t = s.emit 0) ∨
      (s.err = .noError ∧ s.phase ≠ .full ∧ t = (s.setErr .invariantError).emit 0) ∨
      (s.err = .noError ∧ s.phase = .full ∧ t = (takeFiltered (line s) s).emit 0) := by
  rcases whenRunning_next_iff.1 h with h | ⟨he, h⟩
  · exact .inl h
  · rcases inPhase_next_iff.1 h with ⟨hp, ht⟩ | ⟨hp, h⟩
    · exact .inr (.inl ⟨he, hp, ht⟩)
    · exact .inr (.inr ⟨he, hp, by simpa using h.symm⟩)

/-- A push leaves `ACC`, `ERR`, the ports and the reset input alone. -/
theorem pushByte_frame (b : Byte) (s : State) : (pushByte b s).err = s.err ∧ (pushByte b s).inbox = s.inbox ∧
    (pushByte b s).outbox = s.outbox ∧ (pushByte b s).acc = s.acc ∧
    (pushByte b s).resetAsserted = s.resetAsserted := by
  unfold pushByte; split <;> exact ⟨rfl, rfl, rfl, rfl, rfl⟩

/-- A pop leaves `ACC`, `ERR`, the ports and the reset input alone. -/
theorem popByte_frame (s : State) : (popByte s).err = s.err ∧ (popByte s).inbox = s.inbox ∧
    (popByte s).outbox = s.outbox ∧ (popByte s).acc = s.acc ∧ (popByte s).resetAsserted = s.resetAsserted := by
  unfold popByte; split <;> exact ⟨rfl, rfl, rfl, rfl, rfl⟩

/-- Every command is one of four: the halted engine answers it, it raises an error, it is RESET, or it has its own effect.
`ERR`, the ports and the reset input move in no other way. -/
theorem exec_cases {i : Instr} (h : exec i s = .next t) :
    (s.err ≠ .noError ∧ i ≠ .reset ∧ ∃ d, t = s.emit d ∧ (d = 0 ∨ ∃ r, i = .rdreg r)) ∨
    (∃ e, s.err = .noError ∧ e ≠ .noError ∧ t = (s.setErr e).emit 0) ∨
    (i = .reset ∧ t = s.resetEngine.emit 0) ∨
    (s.err = .noError ∧ i ≠ .reset ∧ ∃ (u : State) (d : Word),
      t = u.emit d ∧ u.err = s.err ∧ u.inbox = s.inbox ∧ u.outbox = s.outbox ∧
        u.resetAsserted = s.resetAsserted) := by
  have e0 : ∀ {d : Word}, s.err = .noError → i ≠ .reset → t = s.emit d →
      (s.err = .noError ∧ i ≠ .reset ∧ ∃ (u : State) (d : Word),
        t = u.emit d ∧ u.err = s.err ∧ u.inbox = s.inbox ∧ u.outbox = s.outbox ∧
        u.resetAsserted = s.resetAsserted) :=
    fun he hi ht => ⟨he, hi, s, _, ht, rfl, rfl, rfl, rfl⟩
  cases i
  case nop =>
    cases h
    by_cases he : s.err = .noError
    · exact .inr (.inr (.inr (e0 he nofun rfl)))
    · exact .inl ⟨he, nofun, 0, rfl, .inl rfl⟩
  case reset => cases h; exact .inr (.inr (.inl ⟨rfl, rfl⟩))
  case rdreg r =>
    rcases execRdreg_cases h with ⟨he, rfl⟩ | ⟨he, v, _, rfl⟩ | ⟨he, _, rfl⟩
    · exact .inl ⟨he, nofun, _, rfl, .inr ⟨_, rfl⟩⟩
    · exact .inr (.inr (.inr (e0 he nofun rfl)))
    · exact .inr (.inl ⟨.invariantError, he, nofun, rfl⟩)
  case crcInit =>
    rcases execCrcInit_cases h with ⟨he, rfl⟩ | ⟨he, rfl⟩
    · exact .inl ⟨he, nofun, _, rfl, .inl rfl⟩
    · exact .inr (.inr (.inr ⟨he, nofun, _, _, rfl, rfl, rfl, rfl, rfl⟩))
  case crcByte b =>
    rcases execCrcByte_cases h with ⟨he, rfl⟩ | ⟨he, rfl⟩
    · exact .inl ⟨he, nofun, _, rfl, .inl rfl⟩
    · exact .inr (.inr (.inr ⟨he, nofun, s.setAcc (crcUpdate s.acc b), _, rfl, rfl, rfl, rfl, rfl⟩))
  case crcRead =>
    rcases execCrcRead_cases h with ⟨he, rfl⟩ | ⟨he, rfl⟩
    · exact .inl ⟨he, nofun, _, rfl, .inl rfl⟩
    · exact .inr (.inr (.inr (e0 he nofun rfl)))
  case crcCheck =>
    rcases execCrcCheck_cases h with ⟨he, rfl⟩ | ⟨he, _, rfl⟩ | ⟨he, _, rfl⟩
    · exact .inl ⟨he, nofun, _, rfl, .inl rfl⟩
    · exact .inr (.inr (.inr (e0 he nofun rfl)))
    · exact .inr (.inl ⟨.corruptionError, he, nofun, rfl⟩)
  case setSbc n =>
    rcases execSetSbc_cases h with ⟨he, rfl⟩ | ⟨he, _, rfl⟩ | ⟨he, h1, h2, hp, hw, rfl⟩
    · exact .inl ⟨he, nofun, _, rfl, .inl rfl⟩
    · exact .inr (.inl ⟨.invariantError, he, nofun, rfl⟩)
    · exact .inr (.inr (.inr ⟨he, nofun, _, _, rfl, rfl, rfl, rfl, rfl⟩))
  case setRowbytes n =>
    rcases execSetRowbytes_cases h with ⟨he, rfl⟩ | ⟨he, _, rfl⟩ | ⟨he, h1, h2, hp, hw, rfl⟩
    · exact .inl ⟨he, nofun, _, rfl, .inl rfl⟩
    · exact .inr (.inl ⟨.invariantError, he, nofun, rfl⟩)
    · exact .inr (.inr (.inr ⟨he, nofun, _, _, rfl, rfl, rfl, rfl, rfl⟩))
  case prevZero =>
    rcases execPrevZero_cases h with ⟨he, rfl⟩ | ⟨he, _, rfl⟩ | ⟨he, _, _, rfl⟩
    · exact .inl ⟨he, nofun, _, rfl, .inl rfl⟩
    · exact .inr (.inl ⟨.invariantError, he, nofun, rfl⟩)
    · exact .inr (.inr (.inr ⟨he, nofun, _, _, rfl, rfl, rfl, rfl, rfl⟩))
  case linePush b =>
    rcases execLinePush_cases h with ⟨he, rfl⟩ | ⟨he, _, rfl⟩ | ⟨he, hp, _, rfl⟩
    · exact .inl ⟨he, nofun, _, rfl, .inl rfl⟩
    · exact .inr (.inl ⟨.invariantError, he, nofun, rfl⟩)
    · exact .inr (.inr (.inr ⟨he, nofun, _, _, rfl,
        (pushByte_frame b s).1, (pushByte_frame b s).2.1, (pushByte_frame b s).2.2.1,
        (pushByte_frame b s).2.2.2.2⟩))
  case linePop =>
    rcases execLinePop_cases h with ⟨he, rfl⟩ | ⟨he, _, rfl⟩ | ⟨he, hp, _, rfl⟩
    · exact .inl ⟨he, nofun, _, rfl, .inl rfl⟩
    · exact .inr (.inl ⟨.invariantError, he, nofun, rfl⟩)
    · exact .inr (.inr (.inr ⟨he, nofun, _, _, rfl,
        (popByte_frame s).1, (popByte_frame s).2.1, (popByte_frame s).2.2.1,
        (popByte_frame s).2.2.2.2⟩))
  case defilt =>
    rcases execDefilt_cases h with ⟨he, rfl⟩ | ⟨he, _, rfl⟩ | ⟨he, _, _, rfl⟩ | ⟨he, hp, ty, ht, rfl⟩
    · exact .inl ⟨he, nofun, _, rfl, .inl rfl⟩
    · exact .inr (.inl ⟨.invariantError, he, nofun, rfl⟩)
    · exact .inr (.inl ⟨.formatError, he, nofun, rfl⟩)
    · exact .inr (.inr (.inr ⟨he, nofun, _, _, rfl, rfl, rfl, rfl, rfl⟩))
  all_goals
    rcases filt_cases h with ⟨he, rfl⟩ | ⟨he, _, rfl⟩ | ⟨he, hp, rfl⟩
    · exact .inl ⟨he, nofun, _, rfl, .inl rfl⟩
    · exact .inr (.inl ⟨.invariantError, he, nofun, rfl⟩)
    · exact .inr (.inr (.inr ⟨he, nofun, _, _, rfl, rfl, rfl, rfl, rfl⟩))

/-- The halted engine ignores every command but RESET and RDREG. -/
theorem exec_of_halted {i : Instr} (he : s.err ≠ .noError) (h1 : i ≠ .reset) (h2 : ∀ r, i ≠ .rdreg r) :
    exec i s = .next (s.emit 0) := by
  cases i
  case nop => rfl
  case reset => exact absurd rfl h1
  case rdreg r => exact absurd rfl (h2 r)
  all_goals simp only [exec, execCrcInit, execCrcByte, execCrcRead, execCrcCheck, execSetSbc,
    execSetRowbytes, execPrevZero, execLinePush, execLinePop, execDefilt, execFiltNone, execFiltSub, execFiltUp,
    execFiltAvg, execFiltPaeth, execFiltAdapt, filt, whenRunning_of_halted he]

/-- No command reads the command port or the reset input, and none moves them. -/
theorem exec_port {i : Instr} (h : exec i s = .next t) :
    t.inbox = s.inbox ∧ t.resetAsserted = s.resetAsserted := by
  rcases exec_cases h with ⟨_, _, d, rfl, _⟩ | ⟨e, _, _, rfl⟩ | ⟨_, rfl⟩ | ⟨_, _, u, d, rfl, _, hi, _, hr⟩
  · exact ⟨rfl, rfl⟩
  · exact ⟨rfl, rfl⟩
  · exact ⟨rfl, rfl⟩
  · exact ⟨hi, hr⟩

/-- Every step is one of four: the reset input, nothing to take, a rejected packet, a command. -/
theorem step_cases (h : step s = .next t) :
    (s.resetAsserted = true ∧ t = s.resetEngine.releaseReset) ∨
      (s.resetAsserted = false ∧ s.inbox = [] ∧ t = s) ∨
      (∃ p rest r, s.resetAsserted = false ∧ s.inbox = p :: rest ∧ decode p = .error r ∧
        execRejected r (s.setInbox rest) = .next t) ∨
      (∃ p rest i, s.resetAsserted = false ∧ s.inbox = p :: rest ∧ decode p = .ok i ∧
        exec i (s.setInbox rest) = .next t) := by
  unfold step at h
  split at h
  · next hr => exact .inl ⟨hr, by simpa [applyResetInput] using h.symm⟩
  · next hr =>
    have hr : s.resetAsserted = false := by simpa using hr
    split at h
    · next hi => exact .inr (.inl ⟨hr, hi, by simpa [awaitInput] using h.symm⟩)
    · next p rest hi =>
      split at h
      · next i hd => exact .inr (.inr (.inr ⟨p, rest, i, hr, hi, hd, h⟩))
      · next r hd => exact .inr (.inr (.inl ⟨p, rest, r, hr, hi, hd, h⟩))

end Sys2Proof.Machine
end

