-- ==== Sys2Proof/Laws/PerInstr.lean ====
section
/-! SUPPORT. Statements made once per instruction, about the instruction as syntax. The family `WellFormedEncoding`: every
command's packet is well-formed (`30_encoding.md` rule R76) and lies in its own row of the opcode table (R77). -/

namespace Sys2Proof.Laws.WellFormedEncoding

/-- The packet of `i` is well-formed, and under the mask of `i`'s row it equals that row's match number. -/
def Statement (i : Instr) : Prop :=
  (encode i).wellFormed = true ∧ encode i &&& i.row.2 = i.row.1

theorem nop : Statement .nop := by unfold Statement; decide
theorem reset : Statement .reset := by unfold Statement; decide
theorem crcInit : Statement .crcInit := by unfold Statement; decide
theorem crcRead : Statement .crcRead := by unfold Statement; decide
theorem prevZero : Statement .prevZero := by unfold Statement; decide
theorem linePop : Statement .linePop := by unfold Statement; decide
theorem defilt : Statement .defilt := by unfold Statement; decide
theorem filtNone : Statement .filtNone := by unfold Statement; decide
theorem filtSub : Statement .filtSub := by unfold Statement; decide
theorem filtUp : Statement .filtUp := by unfold Statement; decide
theorem filtAvg : Statement .filtAvg := by unfold Statement; decide
theorem filtPaeth : Statement .filtPaeth := by unfold Statement; decide
theorem filtAdapt : Statement .filtAdapt := by unfold Statement; decide

theorem rdreg (r : Byte) : Statement (.rdreg r) := by unfold Statement; revert r; decide +kernel
theorem crcByte (b : Byte) : Statement (.crcByte b) := by unfold Statement; revert b; decide +kernel
theorem linePush (b : Byte) : Statement (.linePush b) := by unfold Statement; revert b; decide +kernel

/-- Class W has no reserved bit, and its mask keeps the opcode alone. -/
theorem of_classW {i : Instr} {op : Byte} {v : Word} (he : encode i = mkPacket op v)
    (hop : WellFormed.opsW.contains op = true) (hr : i.row = (mkPacket op 0, 0xFF00000000)) : Statement i := by
  refine ⟨?_, ?_⟩
  · have : (mkPacket op v).extractLsb' 32 8 = op := opOf_mkPacket op v
    rw [he, Packet.wellFormed, this, hop]
    simp
  · rw [hr, he, and_maskW, opOf_mkPacket]

theorem crcCheck (v : Word) : Statement (.crcCheck v) := of_classW (v := v) rfl (by decide) rfl
theorem setSbc (n : Word) : Statement (.setSbc n) := of_classW (v := n) rfl (by decide) rfl
theorem setRowbytes (n : Word) : Statement (.setRowbytes n) := of_classW (v := n) rfl (by decide) rfl

end Sys2Proof.Laws.WellFormedEncoding
end

