-- ==== Sys2Proof/Tests/Slice0.lean ====
section
/-! SUPPORT. The model's own tests: expected values are those of `95_test_vectors.md` or of the encoding tables of
`30_encoding.md`, never the model's own answers. Then, for each statement with hypotheses, states and operands that meet
them. -/

namespace Sys2Proof.Tests

open Sys2Proof.Machine

/-! Helpers. -/

/-- A line memory with the given bytes, the tag first. -/
def line (bs : List Byte) : LineMem := (List.range bs.length).zip bs

/-- An engine with lines of `n` data bytes, the other registers at their reset values. -/
def engine (n : Word) (phase : Phase) (wp rp : Word) (cur prev : List Byte) : State :=
  { State.reset with rowBytes := n, phase := phase, wp := wp, rp := rp, cur := line cur, prev := line prev }

/-- A FULL line of four data bytes: section 4.1 with the tag `t`. -/
def full4 (t : Byte) : State := engine 4 .full 5 0 [t, 0x05, 0xFA, 0x07, 0x09] [0x00, 0x0A, 0x14, 0x1E, 0xFA]

/-- A FULL line of four raw bytes: row 1 of section 5.1, the previous line row 0, the ignored tag pushed as `EE`. -/
def raw4 : State := engine 4 .full 5 0 [0xEE, 0x0F, 0x0E, 0x25, 0x03] [0x00, 0x0A, 0x14, 0x1E, 0xFA]

/-- The smallest line, FULL, with the tag `t` (section 4.5). -/
def full1 (t : Byte) : State := engine 1 .full 2 0 [t, 0xAB] [0x00, 0x00]

/-- The smallest line in DRAIN, `r` bytes popped. -/
def drain1 (r : Word) : State := engine 1 .drain 2 r [0x04, 0xAB] [0x04, 0xAB]

/-- The smallest line in LOAD with its tag pushed. -/
def loading1 : State := engine 1 .load 1 0 [0x00] [0x00, 0x00]

/-- An engine halted by CRC_CHECK after the bytes of program P1. -/
def halted : State := { State.reset with acc := 0x51BD9F7D, err := .corruptionError }

/-- The state a command or a step leaves, if it leaves one. -/
def nextOf : Result → Option State
  | .next t => some t
  | .fault _ => none
  | .refused _ => none

/-- The fault a command or a step stops with, if it does. -/
def faultOf : Result → Option Fault
  | .next _ => none
  | .fault f => some f
  | .refused _ => none

/-- One step on the state with the packet `p` waiting. -/
def run (p : Packet) (s : State) : Option State := nextOf (step { s with inbox := [p] })

/-- The responses of one step on the packet `p`. -/
def answers (p : Packet) (s : State) : Option (List Response) := (run p s).map (fun t => t.outbox)

/-- The state with the packet `p` waiting. -/
def waiting (p : Packet) (s : State) : State := { s with inbox := [p] }

/-- The state with the reset input asserted before the packets `ps` have been answered. -/
def resetting (ps : List Packet) (s : State) : State := { s with inbox := ps, resetAsserted := true }

/-! Well-formedness: an ill-formed term for each check (section 7.1). -/

theorem test_wf_unassigned : (0x0300000000 : Packet).wellFormed = false := by decide
theorem test_wf_unassigned_high : (0xFFFFFFFFFF : Packet).wellFormed = false := by decide
theorem test_wf_classN : (0x0000000001 : Packet).wellFormed = false := by decide
theorem test_wf_classN_high_bit : (0x4080000000 : Packet).wellFormed = false := by decide
theorem test_wf_classB : (0x3000000100 : Packet).wellFormed = false := by decide
theorem test_wf_classB_high_bit : (0x1180000000 : Packet).wellFormed = false := by decide
/-- A FILT packet with strategy 5 is well-formed, and is rejected by its own rule (R76, R170). -/
theorem test_wf_filt_strategy : (0x4100000005 : Packet).wellFormed = true := by decide
theorem test_wf_classW : (0x13FFFFFFFF : Packet).wellFormed = true := by decide

/-! Decoding: one word for every constructor, from the tables of R77 and R80. -/

theorem test_decode_nop : decodeTableWord 40 0x0000000000 = some .nop := by decide
theorem test_decode_reset : decodeTableWord 40 0x0100000000 = some .reset := by decide
theorem test_decode_rdreg : decodeTableWord 40 0x0200000005 = some (.rdreg 0x05) := by decide
theorem test_decode_crcInit : decodeTableWord 40 0x1000000000 = some .crcInit := by decide
theorem test_decode_crcByte : decodeTableWord 40 0x1100000049 = some (.crcByte 0x49) := by decide
theorem test_decode_crcRead : decodeTableWord 40 0x1200000000 = some .crcRead := by decide
theorem test_decode_crcCheck : decodeTableWord 40 0x13AE426082 = some (.crcCheck 0xAE426082) := by decide
theorem test_decode_setSbc : decodeTableWord 40 0x2000000018 = some (.setSbc 0x18) := by decide
theorem test_decode_setRowbytes : decodeTableWord 40 0x2180000006 = some (.setRowbytes 0x80000006) := by decide
theorem test_decode_prevZero : decodeTableWord 40 0x2200000000 = some .prevZero := by decide
theorem test_decode_linePush : decodeTableWord 40 0x30000000DC = some (.linePush 0xDC) := by decide
theorem test_decode_linePop : decodeTableWord 40 0x3100000000 = some .linePop := by decide
theorem test_decode_defilt : decodeTableWord 40 0x4000000000 = some .defilt := by decide
theorem test_decode_filtNone : decodeTableWord 40 0x4100000000 = some .filtNone := by decide
theorem test_decode_filtSub : decodeTableWord 40 0x4100000001 = some .filtSub := by decide
theorem test_decode_filtUp : decodeTableWord 40 0x4100000002 = some .filtUp := by decide
theorem test_decode_filtAvg : decodeTableWord 40 0x4100000003 = some .filtAvg := by decide
theorem test_decode_filtPaeth : decodeTableWord 40 0x4100000004 = some .filtPaeth := by decide
theorem test_decode_filtAdapt : decodeTableWord 40 0x41000000FF = some .filtAdapt := by decide
theorem test_decode_filt_five : decodeTableWord 40 0x4100000005 = none := by decide
theorem test_decode_filt_fe : decodeTableWord 40 0x41000000FE = none := by decide
theorem test_decode_reserved : decodeTableWord 40 0x0100000001 = none := by decide
theorem test_decode_unassigned : decodeTableWord 40 0x1400000000 = none := by decide
/-- The byte form: P1 packet 7, then a byte of the next packet (R71). -/
theorem test_decode_bytes :
    decodeBytes [0x13, 0xAE, 0x42, 0x60, 0x82, 0x01] = .command (.crcCheck 0xAE426082) [0x01] := by decide
theorem test_decode_bytes_short : decodeBytes [0x13, 0xAE, 0x42, 0x60] = .incomplete := by decide
/-- The response of P1, packet 6, as bytes (R74). -/
theorem test_response_bytes : (⟨0x00, 0xAE426082⟩ : Response).bytes = [0x00, 0xAE, 0x42, 0x60, 0x82] := by decide
theorem test_encode_crcCheck : packetBytes (encode (.crcCheck 0xAE426082)) = [0x13, 0xAE, 0x42, 0x60, 0x82] := by decide

/-! System commands. -/

/-- P1, packet 12: the ack of NOP shows the latched code. -/
theorem test_nop_halted : answers 0x0000000000 halted = some [⟨2, 0⟩] := by decide
/-- P1, packet 13: RESET while halted. -/
theorem test_reset_halted :
    (run 0x0100000000 halted).map (fun t => t.toEngine) = some Engine.reset := by decide
/-- P1, packet 11: STATUS reads while halted. -/
theorem test_rdreg_halted : answers 0x0200000001 halted = some [⟨2, 2⟩] := by decide
/-- P4, packet 6: STATUS of a FULL line. -/
theorem test_rdreg_status : answers 0x0200000001 (full1 0) = some [⟨0, 4⟩] := by decide
/-- Section 7.5: an ill-formed RESET is ignored while halted. -/
theorem test_illformed_reset_halted : answers 0x0100000001 halted = some [⟨2, 0⟩] := by decide
/-- Section 7.1: FILT with strategy `FE`. -/
theorem test_bad_strategy : answers 0x41000000FE State.reset = some [⟨3, 0⟩] := by decide

/-- R260: with the reset input asserted a waiting packet is lost, with no effect and no response, and the next packet runs
on the reset state. -/
theorem test_reset_input_loses_packets :
    nextOf (step (resetting [0x30000000AB, 0x4000000000] loading1)) = some State.reset := by decide
/-- Section 7.4: and the engine is ready at once. -/
theorem test_ready_after_reset_input :
    ((nextOf (step (resetting [0x30000000AB] halted))).bind (answers 0x0200000000)) = some [⟨0, 0x50434631⟩] := by
  decide

/-! The CRC unit. -/

/-- P1, packet 1. -/
theorem test_crcInit : (run 0x1000000000 { State.reset with acc := 0x51BD9F7D }).map (fun t => t.acc) =
    some 0xFFFFFFFF := by decide
/-- Section 2.1: the byte "a". -/
theorem test_crcByte : (run 0x1100000061 State.reset).map (fun t => t.acc) = some 0x174841BC := by decide
/-- Section 2.2: a zero accumulator absorbs a zero byte unchanged. -/
theorem test_crcByte_zero : (run 0x1100000000 { State.reset with acc := 0 }).map (fun t => t.acc) = some 0 := by
  decide
/-- P1, packet 6. -/
theorem test_crcRead : answers 0x1200000000 { State.reset with acc := 0x51BD9F7D } = some [⟨0, 0xAE426082⟩] := by decide
/-- Section 2.3, row 3. -/
theorem test_crcCheck_match : answers 0x13AE426082 { State.reset with acc := 0x51BD9F7D } = some [⟨0, 0⟩] := by decide
/-- Section 2.3, row 6: the operand bytes in the wrong order. -/
theorem test_crcCheck_byte_order :
    answers 0x13826042AE { State.reset with acc := 0x51BD9F7D } = some [⟨2, 0⟩] := by decide

/-! Configuration and line transfer. -/

/-- Section 7.2: 64 is the largest sample bit count. -/
theorem test_setSbc_64 : (run 0x2000000040 State.reset).map (fun t => (t.sbc, t.bdist)) = some (64, 8) := by decide
/-- Section 7.2: 65 is out of range. -/
theorem test_setSbc_65 : answers 0x2000000041 State.reset = some [⟨3, 0⟩] := by decide
/-- Section 7.2: zero row bytes. -/
theorem test_setRowbytes_0 : answers 0x2100000000 State.reset = some [⟨3, 0⟩] := by decide
/-- Section 4.6: PREV_ZERO zeroes the previous line. -/
theorem test_prevZero :
    (run 0x2200000000 { State.reset with prev := line [0x00, 0x77] }).map (fun t => t.prev) =
      some (line [0x00, 0x00]) := by decide
/-- Section 7.3: PREV_ZERO with one byte pushed. -/
theorem test_prevZero_busy : answers 0x2200000000 loading1 = some [⟨3, 0⟩] := by decide
/-- P4, packet 5 and section 4.5: the last push of a line moves the unit to FULL. -/
theorem test_linePush_last :
    (run 0x30000000AB loading1).map (fun t => (t.phase, t.wp, t.cur)) =
      some (.full, 2, line [0x00, 0xAB]) := by decide
/-- Section 7.3: a third push into a two-byte line. -/
theorem test_linePush_full : answers 0x3000000002 (full1 0) = some [⟨3, 0⟩] := by decide
/-- Section 4.5: the first pop gives the tag. -/
theorem test_linePop_first :
    (run 0x3100000000 (drain1 0)).map (fun t => (t.outbox, t.phase, t.rp)) = some ([⟨0, 4⟩], .drain, 1) := by decide
/-- Section 4.5 and P2, packet 13: the last pop gives the last byte and ends the line. -/
theorem test_linePop_last :
    (run 0x3100000000 (drain1 1)).map (fun t => (t.outbox, t.phase, t.wp, t.rp)) =
      some ([⟨0, 0xAB⟩], .load, 0, 0) := by decide

/-! The predictors, the costs and the transforms. -/

/-- Section 3.1: an average whose sum needs nine bits. -/
theorem test_average_wide : pred .average 200 100 0 = 150 := by decide
/-- Section 3.2, rows 5 to 7 and the last row. -/
theorem test_paeth_ties :
    pred .paeth 60 70 65 = 65 ∧ pred .paeth 11 8 10 = 8 ∧ pred .paeth 8 11 10 = 8 ∧ pred .paeth 200 100 10 = 200 := by
  decide
/-- Section 6.3: the magnitudes. -/
theorem test_sabs : [0x00, 0x01, 0x7F, 0x80, 0x81, 0xFF].map sabs = [0, 1, 127, 128, 127, 1] := by decide
/-- Section 4.1, tag 3. -/
theorem test_defilt_average :
    (run 0x4000000000 (full4 3)).map (fun t => (t.cur, t.prev)) =
      some (line [0x03, 0x0A, 0x09, 0x1A, 0x93], line [0x03, 0x0A, 0x09, 0x1A, 0x93]) := by decide
/-- Section 4.1, tag 4. -/
theorem test_defilt_paeth :
    (run 0x4000000000 (full4 4)).map (fun t => (t.cur, t.phase, t.rp, t.wp)) =
      some (line [0x04, 0x0F, 0x0E, 0x1B, 0x03], .drain, 0, 5) := by decide
/-- Section 4.4, row 16/4: a look-back distance of two. -/
theorem test_defilt_distance :
    (run 0x4000000000 { engine 4 .full 5 0 [0x01, 0x05, 0x2A, 0x4F, 0x74] [0, 0, 0, 0, 0] with sbc := 16 }).map
      (fun t => t.cur) = some (line [0x01, 0x05, 0x2A, 0x54, 0x9E]) := by decide
/-- Section 4.5: a bad tag raises FormatError and leaves both lines. -/
theorem test_defilt_bad_tag :
    run 0x4000000000 (full1 0xFF) = some { full1 0xFF with err := .formatError, outbox := [⟨1, 0⟩] } := by decide
/-- Section 5.1, row 1, strategy 0: the pushed tag is not in the output, and PREV is the pushed line. -/
theorem test_filtNone :
    (run 0x4100000000 raw4).map (fun t => (t.cur, t.prev)) =
      some (line [0x00, 0x0F, 0x0E, 0x25, 0x03], line [0xEE, 0x0F, 0x0E, 0x25, 0x03]) := by decide
/-- Section 5.1, row 1, strategy 1. -/
theorem test_filtSub :
    (run 0x4100000001 raw4).map (fun t => t.cur) = some (line [0x01, 0x0F, 0xFF, 0x17, 0xDE]) := by decide
/-- Section 5.1, row 1, strategy 2. -/
theorem test_filtUp :
    (run 0x4100000002 raw4).map (fun t => t.cur) = some (line [0x02, 0x05, 0xFA, 0x07, 0x09]) := by decide
/-- Section 5.1, row 1, strategy 3. -/
theorem test_filtAvg :
    (run 0x4100000003 raw4).map (fun t => t.cur) = some (line [0x03, 0x0A, 0xFD, 0x0F, 0x74]) := by decide
/-- Section 5.1, row 1, strategy 4. -/
theorem test_filtPaeth :
    (run 0x4100000004 raw4).map (fun t => t.cur) = some (line [0x04, 0x05, 0xFA, 0x11, 0x09]) := by decide
/-- Section 6.1, row 1: Up wins. -/
theorem test_filtAdapt :
    (run 0x41000000FF raw4).map (fun t => t.cur) = some (line [0x02, 0x05, 0xFA, 0x07, 0x09]) := by decide
/-- Section 6.1, row 1: the five costs. -/
theorem test_adaptive_costs :
    [FilterType.none, .sub, .up, .average, .paeth].map (candidateCost raw4) = [69, 73, 27, 144, 37] := by decide
/-- Section 6.3: on an all-zero row all costs are 0 and None wins. -/
theorem test_filtAdapt_tie :
    (run 0x41000000FF (engine 4 .full 5 0 [0xEE, 0, 0, 0, 0] [0, 0, 0, 0, 0])).map (fun t => t.cur) =
      some (line [0, 0, 0, 0, 0]) := by decide

/-! Witnesses: for each statement with hypotheses, in the order of the statements, what meets them. -/

theorem inv_loading1 : loading1.Inv :=
  ⟨by decide, by decide, by decide, Config.one_le_MAXROW, by decide,
    And.intro (by decide) (And.intro (by decide) (by decide))⟩
theorem inv_full1 : (full1 4).Inv :=
  ⟨by decide, by decide, by decide, Config.one_le_MAXROW, by decide,
    And.intro (by decide) (And.intro (by decide) (by decide))⟩
theorem inv_drain1 : (drain1 0).Inv :=
  ⟨by decide, by decide, by decide, Config.one_le_MAXROW, by decide,
    And.intro (by decide) (And.intro (by decide) (And.intro (by decide) (by decide)))⟩
theorem inv_halted : halted.Inv :=
  ⟨by decide, by decide, by decide, Config.one_le_MAXROW, by decide,
    And.intro (by decide) (And.intro (by decide) (by decide))⟩
theorem inv_waiting {s : State} (h : s.Inv) (p : Packet) : (waiting p s).Inv := ⟨h.1, h.2, h.3, h.4, h.5, h.6⟩

theorem witness_StepKeepsInvariant :
    (waiting 0x4000000000 (full1 4)).Inv ∧
      ∃ t, step (waiting 0x4000000000 (full1 4)) = .next t := ⟨inv_waiting inv_full1 _, _, rfl⟩

theorem witness_StepKeepsMemoryCanonical :
    (waiting 0x4000000000 (full4 4)).MemWf ∧
      ∃ t, step (waiting 0x4000000000 (full4 4)) = .next t :=
  ⟨⟨by decide, by decide⟩, _, rfl⟩

/-- A command with data, one that raises, and an ignored one that is not RDREG. -/
theorem witness_EveryPacketGetsOneResponse :
    (waiting 0x3100000000 (drain1 0)).resetAsserted = false ∧
    (waiting 0x3100000000 (drain1 0)).Inv ∧
    ((waiting 0x4000000000 loading1).Inv ∧ loading1.err = .noError ∧
      (run 0x4000000000 loading1).map (fun t => t.err) = some .invariantError) ∧
    ((waiting 0x1200000000 halted).Inv ∧ (0x1200000000 : Packet).extractLsb' 32 8 ≠ 0x02#8 ∧
      (run 0x1200000000 halted).map (fun t => t.err) = some .corruptionError) :=
  ⟨rfl, inv_waiting inv_drain1 _, ⟨inv_waiting inv_loading1 _, rfl, by decide⟩,
    inv_waiting inv_halted _, by decide, by decide⟩

/-- A command that faults, in a state that R29 rules out: `WP` is `LLEN` in LOAD. -/
theorem witness_NoCommandIsRefused :
    faultOf (exec (.linePush 0) { full1 0 with phase := .load }) = some (.noSuchLineIndex 2) := by decide

theorem witness_StepRunsDecodedCommand :
    (waiting 0x30000000DC loading1).resetAsserted = false ∧
    (waiting 0x30000000DC loading1).inbox = 0x30000000DC :: [] ∧
      decode 0x30000000DC = .ok (.linePush 0xDC) := ⟨rfl, rfl, rfl⟩

theorem witness_EmptyPortHoldsState : loading1.resetAsserted = false ∧ loading1.inbox = [] := ⟨rfl, rfl⟩

/-- With packets that wait, and with none. -/
theorem witness_ResetInputGivesResetState :
    (resetting [0x30000000AB, 0x4000000000] loading1).resetAsserted = true ∧ (resetting [] halted).resetAsserted = true :=
  ⟨rfl, rfl⟩

theorem witness_PortRunsCommandsInOrder :
    ({ loading1 with inbox := [0x30000000AB, 0x4000000000, 0x1200000000] } : State).resetAsserted = false ∧
    ({ loading1 with inbox := [0x30000000AB, 0x4000000000, 0x1200000000] } : State).inbox =
      [Instr.linePush 0xAB, .defilt].map encode ++ [0x1200000000] := by decide

/-- Each way to be ill-formed, at the ends of its opcodes, running and halted; and well-formed packets next to them. -/
theorem witness_IllegalPacketRaisesInvariantError :
    (waiting 0x0300000000 loading1).resetAsserted = false ∧
    (waiting 0x0300000000 loading1).inbox = 0x0300000000 :: [] ∧
    loading1.err = .noError ∧ halted.err ≠ .noError ∧
    ([0x03, 0x0F, 0x14, 0x1F, 0x23, 0x2F, 0x32, 0x3F, 0x42, 0xFF] : List Byte).all
      (fun op => !(mkPacket op 0).wellFormed) = true ∧
    (mkPacket 0x40 0x80000000).wellFormed = false ∧ (mkPacket 0x41 0x100).wellFormed = false ∧
    (mkPacket 0x41 0xFF).wellFormed = true ∧ (mkPacket 0x13 0xFFFFFFFF).wellFormed = true ∧
    (mkPacket 0x22 0).wellFormed = true := by decide

theorem witness_BadStrategyRaisesInvariantError :
    (waiting 0x4100000005 (full1 0)).resetAsserted = false ∧
    (waiting 0x4100000005 (full1 0)).inbox = mkPacket 0x41 ((0x05 : Byte).setWidth 32) :: [] ∧
    (waiting 0x41000000FE (full1 0)).inbox = mkPacket 0x41 ((0xFE : Byte).setWidth 32) :: [] ∧
    (full1 0).err = .noError ∧ 5 ≤ (0x05 : Byte).toNat ∧ (0xFE : Byte).toNat ≤ 0xFE := by decide

/-- RESET, RDREG of the last number, and a packet that is neither, while halted. -/
theorem witness_HaltedEngineIgnoresAllElse :
    (waiting 0x0100000000 halted).resetAsserted = false ∧
    halted.err ≠ .noError ∧ (waiting 0x0100000000 halted).inbox = 0x0100000000 :: [] ∧
    (0x02000000FF : Packet).extractLsb' 8 32 = 0x02000000#32 ∧ (0x0200000100 : Packet).extractLsb' 8 32 ≠ 0x02000000#32 ∧
    (0x0100000001 : Packet) ≠ 0x0100000000 := by decide

/-- A latched error that stays, and the two ways it goes. -/
theorem witness_LatchedErrorStaysUntilReset :
    halted.err ≠ .noError ∧
    (run 0x1300000000 halted).map (fun t => t.err) = some .corruptionError ∧
    (run 0x0100000000 halted).map (fun t => t.toEngine) = some Engine.reset ∧
    (nextOf (step (resetting [0x1300000000] halted))).map (fun t => t.toEngine) = some Engine.reset := by decide

/-- Each of the three codes raised from a running engine. -/
theorem witness_ErrorEntryIsPrecise :
    (full1 5).err = .noError ∧
    (run 0x4000000000 (full1 5)).map (fun t => t.err) = some .formatError ∧
    (run 0x1300000001 (full1 5)).map (fun t => t.err) = some .corruptionError ∧
    (run 0x3100000000 (full1 5)).map (fun t => t.err) = some .invariantError := by decide

/-- Busy in LOAD and out of LOAD; out of FULL in both other phases; out of DRAIN in both other phases. -/
theorem witness_OutOfPhaseRaisesInvariantError :
    loading1.err = .noError ∧ ¬(loading1.phase = .load ∧ loading1.wp = 0) ∧
    (full1 0).err = .noError ∧ (full1 0).phase ≠ .load ∧ (full1 0).phase ≠ .drain ∧
    (drain1 0).err = .noError ∧ (drain1 0).phase ≠ .full ∧ (drain1 0).phase ≠ .load ∧
    loading1.phase ≠ .full ∧ loading1.phase ≠ .drain := by decide

/-- The ends of the unimplemented numbers, running and halted. -/
theorem witness_RdregReadsEachRegister :
    8 ≤ (0x08 : Byte).toNat ∧ 8 ≤ (0xFF : Byte).toNat ∧ State.reset.err = .noError ∧ halted.err ≠ .noError := by decide

theorem witness_CrcInitSetsAcc : (full4 4).err = .noError := rfl
theorem witness_CrcByteAbsorbsByte : (full4 4).err = .noError := rfl
theorem witness_CrcReadRespondsComplement : (full4 4).err = .noError := rfl

/-- A match and a mismatch. -/
theorem witness_CrcCheckComparesChecksum :
    State.reset.err = .noError ∧ State.reset.acc ^^^ 0xFFFFFFFF = 0x00000000 ∧
      State.reset.acc ^^^ 0xFFFFFFFF ≠ 0x00000001 := by decide

/-- A running engine, and the commands of section 2.4 between CRC_INIT and CRC_READ. -/
theorem witness_ChecksumOfSequence :
    (full4 4).err = .noError ∧ loading1.err = .noError ∧
    (∀ i ∈ [Instr.crcByte 0x61, .linePush 0x05, .defilt], i ≠ .reset ∧ i ≠ .crcInit) ∧
    (nextOf (runCommands (.crcInit :: [Instr.crcByte 0x61, .linePush 0x05, .defilt] ++ [.crcRead]) loading1)).map
      (fun t => t.err) = some .noError := by decide

/-- The engine after CRC_INIT and the bytes `bs`. -/
def absorbed (bs : List Byte) : State := { State.reset with acc := bs.foldl crcUpdate 0xFFFFFFFF }

theorem absorbed_acc (bs : List Byte) : (absorbed bs).acc = bs.foldl crcUpdate 0xFFFFFFFF := rfl

/-- The flip of section 2.3, in the last byte of "IEND", and the flip of the highest bit. -/
theorem witness_SingleBitFlipIsDetected :
    0 < 8 ∧ 7 < 8 ∧ 31 < 32 ∧ ((0x44 : Byte) ^^^ (1#8 <<< 0)) = 0x45 ∧ ((0x44 : Byte) ^^^ (1#8 <<< 7)) = 0xC4 ∧
    ∀ bad : List Byte, (absorbed bad).err = .noError ∧ (absorbed bad).acc = bad.foldl crcUpdate 0xFFFFFFFF :=
  ⟨by decide, by decide, by decide, by decide, by decide, fun bad => ⟨rfl, absorbed_acc bad⟩⟩

/-- Two states that agree in `ACC` and `ERR` only. -/
theorem witness_CrcCommandsIgnoreFilterUnit :
    Instr.crcRead ∈ [Instr.crcInit, .crcByte 0, .crcRead, .crcCheck 0] ∧ (full4 1).acc = State.reset.acc ∧
      (full4 1).err = State.reset.err ∧ (full4 1).phase ≠ State.reset.phase := by decide

theorem witness_FilterCommandsIgnoreAcc :
    Instr.filtAdapt ∈ [Instr.setSbc 8, .setRowbytes 1, .prevZero, .linePush 0, .linePop, .defilt] ++ filtInstrs ∧
      (nextOf (exec .filtAdapt raw4)).isSome = true := by decide

/-- The ends of the range, and a value outside at each end. -/
theorem witness_SetSbcConfigures :
    State.reset.err = .noError ∧ State.reset.phase = .load ∧ State.reset.wp = 0 ∧
    1 ≤ (0x01 : Word).toNat ∧ (0x40 : Word).toNat ≤ 64 ∧ (0x00 : Word).toNat = 0 ∧ 64 < (0x41 : Word).toNat ∧
    loading1.err = .noError ∧ loading1.wp ≠ 0 ∧ (full1 0).phase ≠ .load := by decide

/-- The lower end, which every `MAXROW` admits, and values outside at each end. -/
theorem witness_SetRowbytesConfigures :
    State.reset.err = .noError ∧ State.reset.phase = .load ∧ State.reset.wp = 0 ∧
    1 ≤ (0x01 : Word).toNat ∧ (0x01 : Word).toNat ≤ Config.MAXROW ∧
    (0x00 : Word).toNat = 0 ∧ Config.MAXROW < (0xFFFFFFFF : Word).toNat ∧ loading1.wp ≠ 0 ∧ (full1 0).phase ≠ .load := by
  refine ⟨by decide, by decide, by decide, by decide, Config.one_le_MAXROW, by decide, ?_, by decide, by decide⟩
  have := Config.MAXROW_le
  show Config.MAXROW < 4294967295
  omega

theorem witness_PrevZeroClearsPrev :
    State.reset.err = .noError ∧ State.reset.phase = .load ∧ State.reset.wp = 0 ∧
    loading1.err = .noError ∧ loading1.wp ≠ 0 ∧ (full1 0).phase ≠ .load := by decide

/-- A push before the last byte, the last push, and a push out of LOAD. -/
theorem witness_LinePushStoresByte :
    State.reset.err = .noError ∧ State.reset.phase = .load ∧ State.reset.wp.toNat < State.reset.rowBytes.toNat + 1 ∧
    loading1.err = .noError ∧ loading1.phase = .load ∧ loading1.wp.toNat < loading1.rowBytes.toNat + 1 ∧
    loading1.wp.toNat + 1 = loading1.rowBytes.toNat + 1 ∧ (full1 0).phase ≠ .load := by decide

/-- A pop before the last byte, the last pop, and a pop out of DRAIN. -/
theorem witness_LinePopReturnsByte :
    (drain1 0).err = .noError ∧ (drain1 0).phase = .drain ∧ (drain1 0).rp.toNat < (drain1 0).rowBytes.toNat + 1 ∧
    (drain1 0).cur.read? 0 = some 0x04 ∧
    (drain1 1).rp.toNat + 1 = (drain1 1).rowBytes.toNat + 1 ∧ (drain1 1).cur.read? 1 = some 0xAB ∧
    (full1 0).phase ≠ .drain := by decide

theorem witness_LineIndexOutOfRangeFaults :
    ({ full1 0 with phase := .load } : State).err = .noError ∧ ({ full1 0 with phase := .load } : State).phase = .load ∧
    ({ full1 0 with phase := .load } : State).llen ≤ ({ full1 0 with phase := .load } : State).wp.toNat ∧
    (drain1 2).phase = .drain ∧ (drain1 2).llen ≤ (drain1 2).rp.toNat := by decide

theorem witness_PushesFillTheLine :
    State.reset.Inv ∧ State.reset.err = .noError ∧ State.reset.phase = .load ∧ State.reset.wp = 0 ∧
      ([0x04, 0xAB] : List Byte).length = State.reset.llen :=
  ⟨⟨by decide, by decide, by decide, Config.one_le_MAXROW, by decide,
    And.intro (by decide) (And.intro (by decide) (by decide))⟩,
    by decide, by decide, by decide, by decide⟩

theorem witness_PopsDrainTheLine :
    (drain1 0).Inv ∧ (drain1 0).err = .noError ∧ (drain1 0).phase = .drain ∧ (drain1 0).rp = 0 :=
  ⟨inv_drain1, by decide, by decide, by decide⟩

/-- Each filter type, with a data index that has no left neighbour and one that has. -/
theorem witness_DefiltReconstructsLine :
    ∀ t ∈ ([0, 1, 2, 3, 4] : List Byte), (full4 t).err = .noError ∧ (full4 t).phase = .full ∧
      ((full4 t).curByte 0) = t ∧ ((full4 t).curByte 0).toNat ≤ 4 ∧
      ¬((full4 t).bdist < 1) ∧ (full4 t).bdist < 4 ∧ 4 ≤ (full4 t).rowBytes.toNat := by decide

theorem witness_DefiltBadTagRaisesFormatError :
    (full1 5).err = .noError ∧ (full1 5).phase = .full ∧ 5 ≤ ((full1 5).curByte 0).toNat ∧
      5 ≤ ((full1 0xFF).curByte 0).toNat := by decide

/-- Two lines whose previous lines differ in the tag position only. -/
theorem witness_DefiltIgnoresPrevTag :
    (nextOf (exec .defilt (full4 4))).isSome = true ∧
    (nextOf (exec .defilt { full4 4 with prev := line [0xEE, 0x0A, 0x14, 0x1E, 0xFA] })).isSome = true ∧
    (full4 4).phase = .full ∧ ((full4 4).curByte 0).toNat ≤ 4 ∧
    (∀ x ≤ 4, 1 ≤ x → ({ full4 4 with prev := line [0xEE, 0x0A, 0x14, 0x1E, 0xFA] } : State).prevByte x =
      (full4 4).prevByte x) := by decide

theorem witness_FiltFiltersLine : raw4.err = .noError ∧ raw4.phase = .full := by decide

theorem witness_FiltAdaptPicksFirstCheapest :
    raw4.err = .noError ∧ raw4.phase = .full ∧
    (∀ ty ∈ [FilterType.none, .sub, .up, .average, .paeth], (nextOf (exec (fixedFilt ty) raw4)).isSome = true) := by decide

/-- Two lines that differ in the tag only. -/
theorem witness_CostIsExactSum :
    ∀ x ≤ 4, 1 ≤ x → (line [0xEE, 0x0F, 0x0E, 0x25, 0x03]).byte Config.curNoValue x =
      (line [0x00, 0x0F, 0x0E, 0x25, 0x03]).byte Config.curNoValue x := by decide

theorem witness_FiltLeavesFilterTypeTag :
    raw4.err = .noError ∧ raw4.phase = .full ∧
    (∀ f ∈ filtInstrs, (nextOf (exec f raw4)).isSome = true) ∧ Instr.filtSub = fixedFilt .sub := by decide

/-- Two lines that differ in the two tag positions only. -/
theorem witness_FiltIgnoresTagPositions :
    let u : State := engine 4 .full 5 0 [0x00, 0x0F, 0x0E, 0x25, 0x03] [0x77, 0x0A, 0x14, 0x1E, 0xFA]
    Instr.filtAdapt ∈ filtInstrs ∧ (nextOf (exec .filtAdapt raw4)).isSome = true ∧
    (nextOf (exec .filtAdapt u)).isSome = true ∧ u.sbc = raw4.sbc ∧ u.rowBytes = raw4.rowBytes ∧
    ∀ x ≤ 4, 1 ≤ x → u.curByte x = raw4.curByte x ∧ u.prevByte x = raw4.prevByte x := by decide

/-- Row 1 of section 5.1 with strategy 4, and the engine of section 4.1 that receives the filtered line. -/
theorem witness_DefiltUndoesFilt :
    let u : State := engine 4 .full 5 0 [0x04, 0x05, 0xFA, 0x11, 0x09] [0x00, 0x0A, 0x14, 0x1E, 0xFA]
    Instr.filtPaeth ∈ filtInstrs ∧ raw4.err = .noError ∧ raw4.phase = .full ∧ u.err = .noError ∧ u.phase = .full ∧
    u.sbc = raw4.sbc ∧ u.rowBytes = raw4.rowBytes ∧
    (∀ x ≤ 4, (nextOf (exec .filtPaeth raw4)).map (fun t => t.curByte x) = some (u.curByte x)) ∧
    (∀ x ≤ 4, 1 ≤ x → u.prevByte x = raw4.prevByte x ∧ (raw4.cur.read? x).isSome = true) := by decide

theorem witness_FirstLineNeverUpOrPaeth :
    let s : State := engine 4 .full 5 0 [0xEE, 0x09, 0xC8, 0x1F, 0x80] [0x00, 0, 0, 0, 0]
    s.err = .noError ∧ s.phase = .full ∧ (nextOf (exec .filtAdapt s)).isSome = true ∧
      ∀ x ≤ 4, 1 ≤ x → s.prevByte x = 0 := by decide

/-- Section 6.2: the repeated line, and the positive costs of None, Sub and Average. -/
theorem witness_RepeatedLineChoosesUp :
    let s : State := engine 4 .full 5 0 [0xEE, 0x09, 0xC8, 0x1F, 0x80] [0x00, 0x09, 0xC8, 0x1F, 0x80]
    s.err = .noError ∧ s.phase = .full ∧ (∀ x ≤ 4, 1 ≤ x → s.curByte x = s.prevByte x) ∧
    [FilterType.none, .sub, .average].map (candidateCost s) = [224, 258, 234] := by decide

end Sys2Proof.Tests
end

section
/-! The statements of the spec's scope (`00_scope.md`): the empty command port, the check value of the CRC, and the
bounds of `MAXROW`. -/

namespace Sys2Proof.Proofs

open Sys2Proof.Machine

/-- The branch of `step` for an empty command port, with the reset input not asserted. -/
theorem step_eq_awaitInput {s : State} (hr : s.resetAsserted = false) (hi : s.inbox = []) :
    step s = awaitInput s := by
  simp [step, hr, hi]

/-- Settles O8: the step waits for input, and waiting changes nothing. -/
theorem emptyPortHoldsState : Obligations.EmptyPortHoldsState := by
  intro s hr hi
  calc step s = awaitInput s := step_eq_awaitInput hr hi
    _ = .next s := rfl

theorem crc32_checkInput :
    crc32 [0x31, 0x32, 0x33, 0x34, 0x35, 0x36, 0x37, 0x38, 0x39] = 0xCBF43926 := by decide +kernel

/-- The worked example of R100, from the accumulator after the byte 0x61 has entered. -/
theorem crcShifts_example :
    (List.range 9).map (fun k => crcShifts k 0xFFFFFF9E) =
      [0xFFFFFF9E, 0x7FFFFFCF, 0xD2477CC7, 0x849B3D43, 0xAFF51D81, 0xBA420DE0, 0x5D2106F0, 0x2E908378, 0x174841BC] := by
  decide

/-- The update of R100's example is its eight shifts: the byte 0x61 turns 0xFFFFFFFF into 0xFFFFFF9E, and the example's
last word is the result. -/
theorem crcUpdate_example : crcUpdate 0xFFFFFFFF 0x61 = 0x174841BC := by
  have enter : (0xFFFFFFFF : Word) ^^^ (0x61 : Byte).setWidth 32 = 0xFFFFFF9E := by decide
  have last : crcShifts 8 0xFFFFFF9E = 0x174841BC :=
    Option.some.inj (congrArg (·[8]?) crcShifts_example)
  rw [crcUpdate, enter, last]

/-- Settles O26: the constants are closed, so the model computes them. -/
theorem crcCheckValue : Obligations.CrcCheckValue :=
  ⟨crc32_checkInput, crcShifts_example, crcUpdate_example⟩

/-- Settles O33: `MAXROW` is a remainder modulo `2^32 - 2`, plus one, whatever it is made from. -/
theorem maxrowBounds : Obligations.MaxrowBounds :=
  ⟨Config.one_le_MAXROW, Config.MAXROW_le⟩

end Sys2Proof.Proofs
end

section
/-! Statements of the architectural state (`10_state.md`): the state invariants of R29 at reset and after every step,
which commands stop, and the registers and derived values a host reads. -/

namespace Sys2Proof.Proofs

open Sys2Proof.Machine

variable {s t : State}

/-! The invariants of R29 under the updates of the state. -/

theorem phaseInv_iff_of_load (hp : s.phase = .load) :
    s.PhaseInv ↔ s.wp.toNat < s.llen ∧ s.rp = 0 ∧ s.cur.covers s.wp.toNat := by
  simp only [State.PhaseInv, hp]

theorem phaseInv_iff_of_full (hp : s.phase = .full) :
    s.PhaseInv ↔ s.wp.toNat = s.llen ∧ s.rp = 0 ∧ s.cur.covers s.llen := by
  simp only [State.PhaseInv, hp]

theorem phaseInv_iff_of_drain (hp : s.phase = .drain) :
    s.PhaseInv ↔ s.wp.toNat = s.llen ∧ s.rp.toNat < s.llen ∧ s.cur.covers s.llen ∧ (s.curByte 0).toNat ≤ 4 := by
  simp only [State.PhaseInv, hp]

/-- The longest line has fewer than `2^32` bytes (R31), so no pointer of a line wraps around (R37). -/
theorem llen_lt_of_inv (h : s.Inv) : s.llen < 2 ^ 32 := by
  have hrow := h.rowBytes_le
  have hmax := Config.MAXROW_le
  simp only [State.llen]
  omega

theorem inv_emit (h : s.Inv) (d : Word) : (s.emit d).Inv := { h with }

theorem inv_setErr (h : s.Inv) (e : ErrCode) : (s.setErr e).Inv := { h with }

theorem inv_setAcc (h : s.Inv) (v : Word) : (s.setAcc v).Inv := { h with }

theorem inv_setInbox (h : s.Inv) (ps : List Packet) : (s.setInbox ps).Inv := { h with }

theorem inv_releaseReset (h : s.Inv) : s.releaseReset.Inv := { h with }

theorem inv_resetEngine (s : State) : s.resetEngine.Inv where
  sbc_pos := show 1 ≤ (8#7).toNat by decide
  sbc_le := show (8#7).toNat ≤ 64 by decide
  rowBytes_pos := show 1 ≤ (1#32).toNat by decide
  rowBytes_le := Config.one_le_MAXROW
  prev_covers := rfl
  phase_inv := Iff.mpr (phaseInv_iff_of_load rfl) ⟨Nat.zero_lt_two, rfl, rfl⟩

theorem inv_setPrev (h : s.Inv) {m : LineMem} (hm : m.covers s.llen) : (s.setPrev m).Inv :=
  { h with prev_covers := hm }

theorem inv_setSbc (h : s.Inv) {n : BitVec 7} (h1 : 1 ≤ n.toNat) (h2 : n.toNat ≤ 64) : (s.setSbc n).Inv :=
  { h with sbc_pos := h1, sbc_le := h2 }

/-- The two halves of SET_ROWBYTES keep R29 together only: `PREV` takes the new line length (R121). -/
theorem inv_setRowBytes_setPrev (h : s.Inv) (hp : s.phase = .load) (hw : s.wp = 0) {n : Word} (h1 : 1 ≤ n.toNat)
    (h2 : n.toNat ≤ Config.MAXROW) : ((s.setRowBytes n).setPrev (LineMem.zeros (n.toNat + 1))).Inv := by
  obtain ⟨-, hrp, hcur⟩ := (phaseInv_iff_of_load hp).1 h.phase_inv
  exact
    { h with
      rowBytes_pos := h1
      rowBytes_le := h2
      prev_covers := LineMem.covers_ofFn _ _
      phase_inv := Iff.mpr (phaseInv_iff_of_load hp) ⟨by simp [hw], hrp, hcur⟩ }

theorem inv_endLine (h : s.Inv) : s.endLine.Inv :=
  { h with phase_inv := Iff.mpr (phaseInv_iff_of_load rfl) ⟨Nat.succ_pos _, rfl, rfl⟩ }

/-- A transform of a full line keeps R29 when the two lines it leaves are whole and the tag is a filter type. -/
theorem inv_toDrain (h : s.Inv) (hp : s.phase = .full) {c p : LineMem} (hc : c.covers s.llen) (hpr : p.covers s.llen)
    (htag : (c.byte Config.curNoValue 0).toNat ≤ 4) : (s.toDrain c p).Inv := by
  obtain ⟨hwp, -, -⟩ := (phaseInv_iff_of_full hp).1 h.phase_inv
  exact
    { h with
      prev_covers := hpr
      phase_inv := Iff.mpr (phaseInv_iff_of_drain rfl) ⟨hwp, Nat.succ_pos _, hc, htag⟩ }

/-! The effects of the line commands. -/

theorem toNat_add_one_of_lt {v : Word} {n : Nat} (hv : v.toNat < n) (hn : n < 2 ^ 32) :
    (v + 1).toNat = v.toNat + 1 := by
  rw [BitVec.toNat_add, show (1 : Word).toNat = 1 from rfl]
  omega

theorem inv_pushByte (h : s.Inv) (hp : s.phase = .load) (b : Byte) : (pushByte b s).Inv := by
  obtain ⟨hwp, hrp, hcur⟩ := (phaseInv_iff_of_load hp).1 h.phase_inv
  have hsucc := toNat_add_one_of_lt hwp (llen_lt_of_inv h)
  have hpush : (s.cur.write s.wp.toNat b).covers (s.wp.toNat + 1) := LineMem.covers_push hcur b
  unfold pushByte
  split
  · next hlast =>
    exact { h with phase_inv := Iff.mpr (phaseInv_iff_of_full rfl) ⟨hsucc.trans hlast, hrp, hlast ▸ hpush⟩ }
  · next hmore =>
    have hlt : (s.wp + 1).toNat < s.llen := by omega
    exact { h with phase_inv := Iff.mpr (phaseInv_iff_of_load hp) ⟨hlt, hrp, hsucc.symm ▸ hpush⟩ }

theorem inv_popByte (h : s.Inv) (hp : s.phase = .drain) : (popByte s).Inv := by
  obtain ⟨hwp, hrp, hcur, htag⟩ := (phaseInv_iff_of_drain hp).1 h.phase_inv
  have hsucc := toNat_add_one_of_lt hrp (llen_lt_of_inv h)
  unfold popByte
  split
  · exact inv_endLine h
  · next hmore =>
    have hlt : (s.rp + 1).toNat < s.llen := by omega
    exact { h with phase_inv := Iff.mpr (phaseInv_iff_of_drain hp) ⟨hwp, hlt, hcur, htag⟩ }

theorem toNat_le_of_tagType? {b : Byte} {ty : FilterType} (h : tagType? b = some ty) : b.toNat ≤ 4 :=
  typeTag_of_tagType? h ▸ typeTag_toNat_le ty

theorem covers_defiltLine (ty : FilterType) (hcur : s.cur.covers s.llen) : (defiltLine ty s).covers s.llen :=
  defiltLoop_covers hcur (by simp only [State.llen]; omega)

/-- The loop of R150 starts at index 1: the tag is kept. -/
theorem defiltLine_byte_zero (ty : FilterType) (s : State) :
    (defiltLine ty s).byte Config.curNoValue 0 = s.curByte 0 :=
  defiltLoop_byte_outside _ (.inl Nat.one_pos)

theorem inv_reconstruct (h : s.Inv) (hp : s.phase = .full) {ty : FilterType} (hty : tagType? (s.curByte 0) = some ty) :
    (reconstruct ty s).Inv := by
  obtain ⟨-, -, hcur⟩ := (phaseInv_iff_of_full hp).1 h.phase_inv
  have hline := covers_defiltLine ty hcur
  exact inv_toDrain h hp hline hline (defiltLine_byte_zero ty s ▸ toNat_le_of_tagType? hty)

theorem inv_takeFiltered (h : s.Inv) (hp : s.phase = .full) {F : Nat → Byte} (hF : (F 0).toNat ≤ 4) :
    (takeFiltered F s).Inv := by
  obtain ⟨-, -, hcur⟩ := (phaseInv_iff_of_full hp).1 h.phase_inv
  refine inv_toDrain h hp (LineMem.covers_ofFn _ _) hcur ?_
  rwa [LineMem.byte_ofFn _ (show 0 < s.llen from Nat.succ_pos _)]

theorem fixedLine_zero (ty : FilterType) (s : State) : fixedLine ty s 0 = typeTag ty := rfl

/-! What every command answers. -/

/-- The answer `r` to state `s` is no refusal, and it is safe (R275) when `s` meets R29. -/
def Admits (s : State) (r : Result) : Prop := (∀ x, r ≠ .refused x) ∧ (s.Inv → SafeResult r)

section Admits

variable {d : Word} {e : ErrCode} {p : Phase} {rule : State → Result}

theorem admits_next (h : s.Inv → t.Inv) : Admits s (.next t) := ⟨nofun, h⟩

theorem admits_fault {f : Fault} (h : ¬ s.Inv) : Admits s (.fault f) := ⟨nofun, h⟩

theorem admits_respond (h : s.Inv → t.Inv) : Admits s (respond d t) := admits_next fun hs => inv_emit (h hs) d

theorem admits_done (h : s.Inv → t.Inv) : Admits s (done t) := admits_respond h

theorem admits_raise : Admits s (raise e s) := admits_done fun hs => inv_setErr hs e

theorem admits_whenRunning (h : Admits s (rule s)) : Admits s (whenRunning s rule) := by
  unfold whenRunning
  split
  · exact admits_done id
  · exact h

theorem admits_inPhase (h : s.phase = p → Admits s (rule s)) : Admits s (inPhase p s rule) := by
  by_cases hp : s.phase = p
  · exact inPhase_of_eq hp ▸ h hp
  · exact inPhase_of_ne hp ▸ admits_raise

theorem admits_whenIdle (h : s.phase = .load → s.wp = 0 → Admits s (rule s)) : Admits s (whenIdle s rule) := by
  by_cases hi : s.phase = .load ∧ s.wp = 0
  · exact whenIdle_of_idle hi.1 hi.2 ▸ h hi.1 hi.2
  · exact whenIdle_of_busy hi ▸ admits_raise

end Admits

theorem admits_execRdreg (r : Byte) (s : State) : Admits s (execRdreg r s) := by
  unfold execRdreg
  split
  · exact admits_respond id
  · split
    · exact admits_respond id
    · exact admits_raise

theorem admits_execCrcInit (s : State) : Admits s (execCrcInit s) :=
  admits_whenRunning <| admits_done fun hs => inv_setAcc hs _

theorem admits_execCrcByte (b : Byte) (s : State) : Admits s (execCrcByte b s) :=
  admits_whenRunning <| admits_done fun hs => inv_setAcc hs _

theorem admits_execCrcCheck (v : Word) (s : State) : Admits s (execCrcCheck v s) := by
  refine admits_whenRunning ?_
  split
  · exact admits_done id
  · exact admits_raise

theorem admits_execSetSbc (n : Word) (s : State) : Admits s (execSetSbc n s) := by
  refine admits_whenRunning ?_
  split
  · exact admits_raise
  · next hn =>
    have hwidth : (n.setWidth 7).toNat = n.toNat := by simp only [BitVec.toNat_setWidth]; omega
    exact admits_whenIdle fun _ _ => admits_done fun hs =>
      inv_setPrev (inv_setSbc hs (by omega) (by omega)) (LineMem.covers_ofFn _ _)

theorem admits_execSetRowbytes (n : Word) (s : State) : Admits s (execSetRowbytes n s) := by
  refine admits_whenRunning ?_
  split
  · exact admits_raise
  · next hn =>
    exact admits_whenIdle fun hp hw => admits_done fun hs =>
      inv_setRowBytes_setPrev hs hp hw (by omega) (by omega)

theorem admits_execPrevZero (s : State) : Admits s (execPrevZero s) :=
  admits_whenRunning <| admits_whenIdle fun _ _ => admits_done fun hs => inv_setPrev hs (LineMem.covers_ofFn _ _)

theorem admits_execLinePush (b : Byte) (s : State) : Admits s (execLinePush b s) := by
  refine admits_whenRunning <| admits_inPhase fun hp => ?_
  split
  · exact admits_done fun hs => inv_pushByte hs hp b
  · next hwp => exact admits_fault fun hs => hwp ((phaseInv_iff_of_load hp).1 hs.phase_inv).1

theorem admits_execLinePop (s : State) : Admits s (execLinePop s) := by
  refine admits_whenRunning <| admits_inPhase fun hp => ?_
  split
  · exact admits_respond fun hs => inv_popByte hs hp
  · next hrp =>
    refine admits_fault fun hs => ?_
    obtain ⟨-, hlt, -⟩ := (phaseInv_iff_of_drain hp).1 hs.phase_inv
    exact hrp hlt

theorem admits_execDefilt (s : State) : Admits s (execDefilt s) := by
  refine admits_whenRunning <| admits_inPhase fun hp => ?_
  split
  · next ty hty => exact admits_done fun hs => inv_reconstruct hs hp hty
  · exact admits_raise

theorem admits_filt {line : State → Nat → Byte} (htag : (line s 0).toNat ≤ 4) : Admits s (filt line s) :=
  admits_whenRunning <| admits_inPhase fun hp => admits_done fun hs => inv_takeFiltered hs hp htag

theorem admits_filt_fixedLine (ty : FilterType) (s : State) : Admits s (filt (fixedLine ty) s) :=
  admits_filt (fixedLine_zero ty s ▸ typeTag_toNat_le ty)

theorem admits_exec (i : Instr) (s : State) : Admits s (exec i s) := by
  cases i with
  | nop => exact admits_done id
  | reset => exact admits_done fun _ => inv_resetEngine s
  | rdreg r => exact admits_execRdreg r s
  | crcInit => exact admits_execCrcInit s
  | crcByte b => exact admits_execCrcByte b s
  | crcRead => exact admits_whenRunning <| admits_respond id
  | crcCheck v => exact admits_execCrcCheck v s
  | setSbc n => exact admits_execSetSbc n s
  | setRowbytes n => exact admits_execSetRowbytes n s
  | prevZero => exact admits_execPrevZero s
  | linePush b => exact admits_execLinePush b s
  | linePop => exact admits_execLinePop s
  | defilt => exact admits_execDefilt s
  | filtNone => exact admits_filt_fixedLine .none s
  | filtSub => exact admits_filt_fixedLine .sub s
  | filtUp => exact admits_filt_fixedLine .up s
  | filtAvg => exact admits_filt_fixedLine .average s
  | filtPaeth => exact admits_filt_fixedLine .paeth s
  | filtAdapt => exact admits_filt (typeTag_toNat_le (adaptiveType s))

/-- A command keeps R29. -/
theorem inv_of_exec {i : Instr} (hs : s.Inv) (h : exec i s = .next t) : t.Inv := by
  have hsafe := (admits_exec i s).2 hs
  rwa [h] at hsafe

/-- Settles O3: the reset input gives the reset state, waiting and a rejected packet touch no element of the
filter unit, and a command's answer is safe. -/
theorem stepKeepsInvariant : Obligations.StepKeepsInvariant := by
  intro s t hs h
  rcases step_cases h with ⟨-, rfl⟩ | ⟨-, -, rfl⟩ | ⟨_, rest, r, -, -, -, hrej⟩ | ⟨_, rest, i, -, -, -, hex⟩
  · exact inv_releaseReset (inv_resetEngine s)
  · exact hs
  · rcases execRejected_cases hrej with ⟨-, rfl⟩ | ⟨-, rfl⟩
    · exact inv_emit (inv_setInbox hs rest) 0
    · exact inv_emit (inv_setErr (inv_setInbox hs rest) _) 0
  · exact inv_of_exec (inv_setInbox hs rest) hex

/-- Settles O6: the answer of a command is no refusal, and none that is safe is a fault. -/
theorem noCommandIsRefused : Obligations.NoCommandIsRefused := by
  intro i s
  obtain ⟨hrefused, hsafe⟩ := admits_exec i s
  refine ⟨hrefused, fun f hf hs => ?_⟩
  have hfault := hsafe hs
  rwa [hf] at hfault

/-! Reset. -/

theorem exec_reset (s : State) : exec .reset s = .next (s.resetEngine.emit 0) := rfl

theorem reset_prev : State.reset.prev = LineMem.zeros 2 := rfl

/-- Settles O1: R41 as the reset state holds it, and RESET loads the same nine elements. -/
theorem resetStateHasSpecValues : Obligations.ResetStateHasSpecValues := by
  refine ⟨rfl, rfl, rfl, rfl, rfl, rfl, rfl, rfl, rfl, fun _ => rfl, fun i => ?_, fun s => ⟨_, exec_reset s, rfl⟩⟩
  rw [reset_prev, LineMem.zeros, LineMem.read?_ofFn]

/-- Settles O2: the reset state is what the reset of the engine makes of it, and `PREV` is a whole line of zeros. -/
theorem resetMeetsInvariant : Obligations.ResetMeetsInvariant :=
  ⟨inv_resetEngine State.reset, List.Pairwise.nil, LineMem.wf_of_covers (n := 2) rfl⟩

/-! The registers and the derived values. -/

theorem statusWord_toNat (s : State) : s.statusWord.toNat = 4 * s.phase.code.toNat + s.err.code.toNat := by
  cases hp : s.phase <;> cases he : s.err <;> simp [State.statusWord, hp, he, Phase.code, ErrCode.code]

theorem statusWord_eq_ofNat (s : State) :
    s.statusWord = BitVec.ofNat 32 (4 * s.phase.code.toNat + s.err.code.toNat) := by
  rw [← statusWord_toNat, BitVec.ofNat_toNat, BitVec.setWidth_eq]

theorem phase_code_toNat_le (p : Phase) : p.code.toNat ≤ 2 := by cases p <;> decide

/-- An implemented register is read the same way running and halted. -/
theorem exec_rdreg_of_some {r : Byte} {v : Word} (h : s.reg? r = some v) : exec (.rdreg r) s = .next (s.emit v) := by
  simp [exec, execRdreg, h]

theorem exec_rdreg_of_none {r : Byte} (h : s.reg? r = none) :
    exec (.rdreg r) s = if s.err = .noError then raise .invariantError s else done s := by
  by_cases he : s.err = .noError <;> simp [exec, execRdreg, State.halted, h, he]

/-- Settles O19: each register by its number, and the numbers 8 to 255 by the halted test. -/
theorem rdregReadsEachRegister : Obligations.RdregReadsEachRegister := by
  refine ⟨fun s => ⟨exec_rdreg_of_some rfl, ?_, ?_, exec_rdreg_of_some rfl, exec_rdreg_of_some rfl,
    exec_rdreg_of_some rfl, exec_rdreg_of_some rfl, exec_rdreg_of_some rfl⟩, fun s r hr => ?_⟩
  · rw [← statusWord_eq_ofNat]
    exact exec_rdreg_of_some rfl
  · rw [BitVec.ofNat_toNat]
    exact exec_rdreg_of_some rfl
  · rw [exec_rdreg_of_none ((s.reg?_eq_none_iff r).2 hr)]
    split <;> rfl

/-- Settles O20: the fields lie side by side in the word, and `PHASE` is at most 2. -/
theorem statusFields : Obligations.StatusFields := by
  intro s
  have hphase := phase_code_toNat_le s.phase
  have herr := s.err.code.isLt
  have hword := statusWord_toNat s
  refine ⟨?_, ?_, ?_, by omega⟩ <;>
    · apply BitVec.eq_of_toNat_eq
      simp only [BitVec.extractLsb'_toNat, hword, Nat.shiftRight_eq_div_pow, BitVec.toNat_ofNat]
      omega

/-- Settles O42: the quotient of R30 on each interval of eight. -/
theorem bdistTable : Obligations.BdistTable := by
  intro s
  simp only [State.bdist]
  omega

end Sys2Proof.Proofs
end

section
/-! Statements of ordering and the line memories (`20_memory.md`): the canonical form of the line memories, the commands
that wait in the port, the independence of the filter unit from `ACC`, and the indices that `CUR` does not have. -/

namespace Sys2Proof.Proofs

open Sys2Proof.Machine

variable {s t : State}

/-! Accesses outside the line. -/

/-- Settles O37: past the halted test and the phase test, the test of the index alone decides. -/
theorem lineIndexOutOfRangeFaults : Obligations.LineIndexOutOfRangeFaults := by
  intro s he
  refine ⟨fun hp hwp b => ?_, fun hp hrp => ?_⟩
  · show execLinePush b s = _
    rw [execLinePush, whenRunning_of_running he, inPhase_of_eq hp, if_neg (Nat.not_lt.2 hwp)]
  · show execLinePop s = _
    rw [execLinePop, whenRunning_of_running he, inPhase_of_eq hp, if_neg (Nat.not_lt.2 hrp)]

/-! The canonical form of the line memories. -/

theorem memWf_resetEngine (s : State) : s.resetEngine.MemWf := resetMeetsInvariant.2

theorem memWf_setPrev_zeros (hs : s.MemWf) (n : Nat) : (s.setPrev (LineMem.zeros n)).MemWf :=
  ⟨hs.1, LineMem.wf_ofFn n _⟩

theorem memWf_pushByte (hs : s.MemWf) (b : Byte) : (pushByte b s).MemWf := by
  have hwrite : (s.writeCur s.wp.toNat b).MemWf := ⟨LineMem.wf_write hs.1 _ _, hs.2⟩
  unfold pushByte
  split <;> exact hwrite

theorem memWf_popByte (hs : s.MemWf) : (popByte s).MemWf := by
  unfold popByte
  split
  · exact ⟨List.Pairwise.nil, hs.2⟩
  · exact hs

theorem memWf_reconstruct (hs : s.MemWf) (ty : FilterType) : (reconstruct ty s).MemWf :=
  ⟨defiltLoop_wf hs.1, defiltLoop_wf hs.1⟩

theorem memWf_takeFiltered (hs : s.MemWf) (F : Nat → Byte) : (takeFiltered F s).MemWf :=
  ⟨LineMem.wf_ofFn _ F, hs.1⟩

theorem memWf_of_filt {line : State → Nat → Byte} (hs : s.MemWf) (h : filt line s = .next t) : t.MemWf := by
  rcases filt_cases h with ⟨-, rfl⟩ | ⟨-, -, rfl⟩ | ⟨-, -, rfl⟩
  · exact hs
  · exact hs
  · exact memWf_takeFiltered hs (line s)

/-- A command keeps the canonical form. A response and a raised error leave both memories alone, so there `hs` itself is
the claim. -/
theorem memWf_of_exec {i : Instr} (hs : s.MemWf) (h : exec i s = .next t) : t.MemWf := by
  cases i with
  | nop => cases h; exact hs
  | reset => cases h; exact memWf_resetEngine s
  | rdreg r => rcases execRdreg_cases h with ⟨-, rfl⟩ | ⟨-, _, -, rfl⟩ | ⟨-, -, rfl⟩ <;> exact hs
  | crcInit => rcases execCrcInit_cases h with ⟨-, rfl⟩ | ⟨-, rfl⟩ <;> exact hs
  | crcByte b => rcases execCrcByte_cases h with ⟨-, rfl⟩ | ⟨-, rfl⟩ <;> exact hs
  | crcRead => rcases execCrcRead_cases h with ⟨-, rfl⟩ | ⟨-, rfl⟩ <;> exact hs
  | crcCheck v => rcases execCrcCheck_cases h with ⟨-, rfl⟩ | ⟨-, -, rfl⟩ | ⟨-, -, rfl⟩ <;> exact hs
  | setSbc n =>
    rcases execSetSbc_cases h with ⟨-, rfl⟩ | ⟨-, -, rfl⟩ | ⟨-, -, -, -, -, rfl⟩
    · exact hs
    · exact hs
    · exact memWf_setPrev_zeros hs s.llen
  | setRowbytes n =>
    rcases execSetRowbytes_cases h with ⟨-, rfl⟩ | ⟨-, -, rfl⟩ | ⟨-, -, -, -, -, rfl⟩
    · exact hs
    · exact hs
    · exact memWf_setPrev_zeros hs (n.toNat + 1)
  | prevZero =>
    rcases execPrevZero_cases h with ⟨-, rfl⟩ | ⟨-, -, rfl⟩ | ⟨-, -, -, rfl⟩
    · exact hs
    · exact hs
    · exact memWf_setPrev_zeros hs s.llen
  | linePush b =>
    rcases execLinePush_cases h with ⟨-, rfl⟩ | ⟨-, -, rfl⟩ | ⟨-, -, -, rfl⟩
    · exact hs
    · exact hs
    · exact memWf_pushByte hs b
  | linePop =>
    rcases execLinePop_cases h with ⟨-, rfl⟩ | ⟨-, -, rfl⟩ | ⟨-, -, -, rfl⟩
    · exact hs
    · exact hs
    · exact memWf_popByte hs
  | defilt =>
    rcases execDefilt_cases h with ⟨-, rfl⟩ | ⟨-, -, rfl⟩ | ⟨-, -, -, rfl⟩ | ⟨-, -, ty, -, rfl⟩
    · exact hs
    · exact hs
    · exact hs
    · exact memWf_reconstruct hs ty
  | filtNone => exact memWf_of_filt hs h
  | filtSub => exact memWf_of_filt hs h
  | filtUp => exact memWf_of_filt hs h
  | filtAvg => exact memWf_of_filt hs h
  | filtPaeth => exact memWf_of_filt hs h
  | filtAdapt => exact memWf_of_filt hs h

/-- Settles O4: the reset state is canonical, waiting and a rejected packet touch no line memory, and a command keeps
the form. -/
theorem stepKeepsMemoryCanonical : Obligations.StepKeepsMemoryCanonical := by
  intro s t hs h
  rcases step_cases h with ⟨-, rfl⟩ | ⟨-, -, rfl⟩ | ⟨_, rest, r, -, -, -, hrej⟩ | ⟨_, rest, i, -, -, -, hex⟩
  · exact memWf_resetEngine s
  · exact hs
  · rcases execRejected_cases hrej with ⟨-, rfl⟩ | ⟨-, rfl⟩ <;> exact hs
  · exact memWf_of_exec (s := s.setInbox rest) hs hex

/-! What a command does not see. The filter unit does not see `ACC`, and no command sees the command port: changing them
before the command or after it is the same. -/

/-- The state with `ACC` and the command port changed, and nothing else. -/
def mapAccInbox (f : Word → Word) (g : List Packet → List Packet) (s : State) : State :=
  { s with acc := f s.acc, inbox := g s.inbox }

/-- An answer with its next state changed; a fault or a refusal stays as it is. -/
def mapNext (u : State → State) : Result → Result
  | .next t => .next (u t)
  | .fault x => .fault x
  | .refused x => .refused x

/-- The rule neither reads nor writes what `u` changes: it may be changed before the rule or after it. -/
def CommutesWith (u : State → State) (rule : State → Result) : Prop :=
  ∀ s, rule (u s) = mapNext u (rule s)

theorem setAcc_eq_mapAccInbox (a : Word) : (State.setAcc · a) = mapAccInbox (fun _ => a) id := rfl

theorem setInbox_eq_mapAccInbox (ps : List Packet) : (State.setInbox · ps) = mapAccInbox id (fun _ => ps) := rfl

/-- A rule that commutes with every replacement of `ACC` keeps it: replacing `ACC` by itself changes nothing. -/
theorem acc_of_commutesWith {rule : State → Result} (hrule : ∀ a, CommutesWith (State.setAcc · a) rule)
    (h : rule s = .next t) : t.acc = s.acc := by
  have hsame : rule s = mapNext (State.setAcc · s.acc) (rule s) := hrule s.acc s
  have ht : t = t.setAcc s.acc := by simpa only [h, mapNext, Host.Outcome.next.injEq] using hsame
  rw [ht, State.setAcc_acc]

section Commutes

variable {f : Word → Word} {g : List Packet → List Packet}

section Rules

variable {rule rule' : State → Result} {effect : State → State} {e : ErrCode} {p : Phase}

theorem commutes_respond {data : State → Word} (hdata : ∀ s, data (mapAccInbox f g s) = data s)
    (heffect : ∀ s, effect (mapAccInbox f g s) = mapAccInbox f g (effect s)) :
    CommutesWith (mapAccInbox f g) (fun s => respond (data s) (effect s)) := by
  intro s
  show respond (data (mapAccInbox f g s)) (effect (mapAccInbox f g s)) = respond (data s) (mapAccInbox f g (effect s))
  rw [hdata, heffect]

theorem commutes_done (heffect : ∀ s, effect (mapAccInbox f g s) = mapAccInbox f g (effect s)) :
    CommutesWith (mapAccInbox f g) (fun s => done (effect s)) :=
  commutes_respond (fun _ => rfl) heffect

theorem commutes_raise : CommutesWith (mapAccInbox f g) (raise e) := commutes_done fun _ => rfl

theorem commutes_ite {c : State → Prop} [DecidablePred c] (hc : ∀ s, c (mapAccInbox f g s) ↔ c s)
    (h : CommutesWith (mapAccInbox f g) rule) (h' : CommutesWith (mapAccInbox f g) rule') :
    CommutesWith (mapAccInbox f g) (fun s => if c s then rule s else rule' s) := by
  intro s
  by_cases hs : c s
  · simpa [hs, hc] using h s
  · simpa [hs, hc] using h' s

theorem commutes_whenRunning (h : CommutesWith (mapAccInbox f g) rule) :
    CommutesWith (mapAccInbox f g) (whenRunning · rule) :=
  commutes_ite (fun _ => Iff.rfl) (commutes_done fun _ => rfl) h

theorem commutes_inPhase (h : CommutesWith (mapAccInbox f g) rule) :
    CommutesWith (mapAccInbox f g) (inPhase p · rule) :=
  commutes_ite (fun _ => Iff.rfl) h commutes_raise

theorem commutes_whenIdle (h : CommutesWith (mapAccInbox f g) rule) :
    CommutesWith (mapAccInbox f g) (whenIdle · rule) :=
  commutes_ite (fun _ => Iff.rfl) h commutes_raise

end Rules

theorem pushByte_mapAccInbox (b : Byte) (s : State) :
    pushByte b (mapAccInbox f g s) = mapAccInbox f g (pushByte b s) := by
  simp only [pushByte, apply_ite (mapAccInbox f g)]
  rfl

theorem popByte_mapAccInbox (s : State) : popByte (mapAccInbox f g s) = mapAccInbox f g (popByte s) := by
  simp only [popByte, apply_ite (mapAccInbox f g)]
  rfl

theorem commutes_execRdreg (r : Byte) : CommutesWith (mapAccInbox f g) (execRdreg r) := by
  refine commutes_ite (fun _ => Iff.rfl) (commutes_respond (fun _ => rfl) fun _ => rfl) fun s => ?_
  have hreg : (mapAccInbox f g s).reg? r = s.reg? r := rfl
  cases hr : s.reg? r with
  | some v => simp only [hreg, hr]; rfl
  | none => simp only [hreg, hr]; rfl

theorem commutes_execSetSbc (n : Word) : CommutesWith (mapAccInbox f g) (execSetSbc n) :=
  commutes_whenRunning <| commutes_ite (fun _ => Iff.rfl) commutes_raise <|
    commutes_whenIdle <| commutes_done fun _ => rfl

theorem commutes_execSetRowbytes (n : Word) : CommutesWith (mapAccInbox f g) (execSetRowbytes n) :=
  commutes_whenRunning <| commutes_ite (fun _ => Iff.rfl) commutes_raise <|
    commutes_whenIdle <| commutes_done fun _ => rfl

theorem commutes_execPrevZero : CommutesWith (mapAccInbox f g) execPrevZero :=
  commutes_whenRunning <| commutes_whenIdle <| commutes_done fun _ => rfl

theorem commutes_execLinePush (b : Byte) : CommutesWith (mapAccInbox f g) (execLinePush b) :=
  commutes_whenRunning <| commutes_inPhase <|
    commutes_ite (fun _ => Iff.rfl) (commutes_done (pushByte_mapAccInbox b)) fun _ => rfl

theorem commutes_execLinePop : CommutesWith (mapAccInbox f g) execLinePop :=
  commutes_whenRunning <| commutes_inPhase <|
    commutes_ite (fun _ => Iff.rfl) (commutes_respond (fun _ => rfl) popByte_mapAccInbox) fun _ => rfl

theorem commutes_execDefilt : CommutesWith (mapAccInbox f g) execDefilt := by
  refine commutes_whenRunning <| commutes_inPhase fun s => ?_
  have hcur : (mapAccInbox f g s).curByte 0 = s.curByte 0 := rfl
  cases hty : tagType? (s.curByte 0) with
  | some ty => simp only [hcur, hty]; rfl
  | none => simp only [hcur, hty]; rfl

/-- FILT with a line that is made without `ACC` and the command port. -/
theorem commutes_filt {line : State → Nat → Byte} (hline : ∀ s, line (mapAccInbox f g s) = line s) :
    CommutesWith (mapAccInbox f g) (filt line) :=
  commutes_whenRunning <| commutes_inPhase <| commutes_done fun s => by rw [hline]; rfl

/-- The commands that read or write `ACC`: those of the CRC unit, and RESET (R61, R201). -/
def usesAcc : Instr → Bool
  | .reset | .crcInit | .crcByte _ | .crcRead | .crcCheck _ => true
  | _ => false

/-- Every command commutes with a change of the command port, and with one of `ACC` unless it uses `ACC`. -/
theorem commutes_exec (i : Instr) (hf : usesAcc i = true → f = id) : CommutesWith (mapAccInbox f g) (exec i) := by
  cases i with
  | nop => exact commutes_done fun _ => rfl
  | reset => obtain rfl := hf rfl; exact commutes_done fun _ => rfl
  | rdreg r => exact commutes_execRdreg r
  | crcInit => obtain rfl := hf rfl; exact commutes_whenRunning <| commutes_done fun _ => rfl
  | crcByte b => obtain rfl := hf rfl; exact commutes_whenRunning <| commutes_done fun _ => rfl
  | crcRead => obtain rfl := hf rfl; exact commutes_whenRunning <| commutes_respond (fun _ => rfl) fun _ => rfl
  | crcCheck v =>
    obtain rfl := hf rfl
    exact commutes_whenRunning <| commutes_ite (fun _ => Iff.rfl) (commutes_done fun _ => rfl) commutes_raise
  | setSbc n => exact commutes_execSetSbc n
  | setRowbytes n => exact commutes_execSetRowbytes n
  | prevZero => exact commutes_execPrevZero
  | linePush b => exact commutes_execLinePush b
  | linePop => exact commutes_execLinePop
  | defilt => exact commutes_execDefilt
  | filtNone => exact commutes_filt fun _ => rfl
  | filtSub => exact commutes_filt fun _ => rfl
  | filtUp => exact commutes_filt fun _ => rfl
  | filtAvg => exact commutes_filt fun _ => rfl
  | filtPaeth => exact commutes_filt fun _ => rfl
  | filtAdapt => exact commutes_filt fun _ => rfl

end Commutes

theorem exec_setAcc {i : Instr} (hi : usesAcc i = false) (a : Word) : CommutesWith (State.setAcc · a) (exec i) :=
  setAcc_eq_mapAccInbox a ▸ commutes_exec i (by simp [hi])

theorem exec_setInbox (i : Instr) (ps : List Packet) : CommutesWith (State.setInbox · ps) (exec i) :=
  setInbox_eq_mapAccInbox ps ▸ commutes_exec i fun _ => rfl

theorem usesAcc_of_filterCommand {n : Word} {b : Byte} {i : Instr}
    (hi : i ∈ [Instr.setSbc n, .setRowbytes n, .prevZero, .linePush b, .linePop, .defilt] ++ filtInstrs) :
    usesAcc i = false := by
  revert i
  simp [filtInstrs, usesAcc]

/-- Settles O30: no filter-unit command uses `ACC`, so it commutes with every replacement of `ACC`. -/
theorem filterCommandsIgnoreAcc : Obligations.FilterCommandsIgnoreAcc := by
  intro n b i hi s t a h
  have hcomm := exec_setAcc (usesAcc_of_filterCommand hi)
  refine ⟨acc_of_commutesWith hcomm h, ?_⟩
  calc exec i (s.setAcc a) = mapNext (State.setAcc · a) (exec i s) := hcomm a s
    _ = .next (t.setAcc a) := by rw [h]; rfl

/-! The commands waiting in the port. -/

theorem decode_mkPacket_byteImm {o : Opcode} (ho : o.immClass = .B) (b : Byte) :
    decode (mkPacket o.toByte (byteImm b)) = decodeOperand o (byteImm b) :=
  decode_mkPacket o _ (ho ▸ reservedClear_byteImm b)

/-- The decoder reads back every command the encoder writes (R77). -/
theorem decode_encode (i : Instr) : decode (encode i) = .ok i := by
  cases i with
  | rdreg r => exact (decode_mkPacket_byteImm (o := .rdreg) rfl r).trans (by simp [decodeOperand])
  | crcByte b => exact (decode_mkPacket_byteImm (o := .crcByte) rfl b).trans (by simp [decodeOperand])
  | linePush b => exact (decode_mkPacket_byteImm (o := .linePush) rfl b).trans (by simp [decodeOperand])
  | crcCheck v => exact decode_mkPacket .crcCheck v rfl
  | setSbc n => exact decode_mkPacket .setSbc n rfl
  | setRowbytes n => exact decode_mkPacket .setRowbytes n rfl
  | _ => rfl

/-- The last branch of the command cycle (R78): the oldest packet is a command. -/
theorem step_eq_exec {p : Packet} {rest : List Packet} {i : Instr} (hr : s.resetAsserted = false)
    (hp : s.inbox = p :: rest) (hd : decode p = .ok i) : step s = exec i (s.setInbox rest) := by
  simp [step, hr, hp, hd]

/-- One answer after the other: the second rule runs on the next state of the first answer, if there is one. -/
def andThen {σ φ ρ : Type} (r : Host.Outcome σ φ ρ) (rule : σ → Host.Outcome σ φ ρ) : Host.Outcome σ φ ρ :=
  match r with
  | .next t => rule t
  | .fault x => .fault x
  | .refused x => .refused x

theorem andThen_congr {r : Result} {rule rule' : State → Result} (h : ∀ t, r = .next t → rule t = rule' t) :
    andThen r rule = andThen r rule' := by
  cases r with
  | next t => exact h t rfl
  | fault x => rfl
  | refused x => rfl

theorem andThen_mapNext (u : State → State) (r : Result) (rule : State → Result) :
    andThen (mapNext u r) rule = andThen r fun t => rule (u t) := by
  cases r <;> rfl

theorem run_succ (M : Host.Core) (k : Nat) (s : M.State) : M.run (k + 1) s = andThen (M.step s) (M.run k) := by
  rw [Host.Core.run]
  cases M.step s <;> rfl

/-- `k` steps of the machine, with its state by the model's own name. -/
def runSteps (k : Nat) (s : State) : Result := core.run k s

theorem runSteps_succ (k : Nat) (s : State) : runSteps (k + 1) s = andThen (step s) (runSteps k) := run_succ core k s

theorem runCommands_cons (i : Instr) (is : List Instr) (s : State) :
    runCommands (i :: is) s = andThen (exec i s) (runCommands is) := by
  rw [runCommands]
  cases exec i s <;> rfl

/-- By induction on the commands: each step is a command's own run, which the packets behind it do not change and which
leaves them waiting. -/
theorem runSteps_map_encode (is : List Instr) : ∀ (s : State) (rest : List Packet),
    s.resetAsserted = false → s.inbox = is.map encode ++ rest →
      runSteps is.length s = runCommands is (s.setInbox rest) := by
  induction is with
  | nil =>
    intro s rest _ hs
    obtain rfl : s.inbox = rest := hs
    rfl
  | cons i is ih =>
    intro s rest hr hs
    have hstep : step s = exec i (s.setInbox (is.map encode ++ rest)) := step_eq_exec hr hs (decode_encode i)
    have hfirst : exec i (s.setInbox rest) = mapNext (State.setInbox · rest) (step s) :=
      hstep ▸ exec_setInbox i rest (s.setInbox (is.map encode ++ rest))
    have hrest : ∀ t, step s = .next t → runSteps is.length t = runCommands is (t.setInbox rest) := by
      intro t ht
      obtain ⟨hinbox, hreset⟩ := exec_port (hstep ▸ ht)
      exact ih t rest (hreset.trans hr) hinbox
    calc runSteps (is.length + 1) s
      _ = andThen (step s) (runSteps is.length) := runSteps_succ _ s
      _ = andThen (step s) (fun t => runCommands is (t.setInbox rest)) := andThen_congr hrest
      _ = andThen (exec i (s.setInbox rest)) (runCommands is) := by rw [hfirst, andThen_mapNext]
      _ = runCommands (i :: is) (s.setInbox rest) := (runCommands_cons i is _).symm

/-- Settles O10: `runSteps` is the machine's own run. -/
theorem portRunsCommandsInOrder : Obligations.PortRunsCommandsInOrder := runSteps_map_encode

end Sys2Proof.Proofs
end

section
/-! Statements of the encoding (`30_encoding.md`): decoder and encoder, the opcode table's match and mask numbers,
well-formedness, the byte form, and what a step does with the packet it takes. -/

namespace Sys2Proof.Proofs

open Sys2Proof.Machine

variable {s t : State} {p : Packet} {i : Instr} {o : Opcode}

/-! The decoder and the encoder are inverse to each other. -/

theorem encode_of_filtOfStrategy {b : Byte} (h : filtOfStrategy b = some i) : encode i = mkPacket 0x41 (byteImm b) := by
  rcases filtOfStrategy_cases h with ⟨rfl, rfl⟩ | ⟨rfl, rfl⟩ | ⟨rfl, rfl⟩ | ⟨rfl, rfl⟩ | ⟨rfl, rfl⟩ | ⟨rfl, rfl⟩ <;> rfl

theorem decodeOperand_filt_ok_iff (imm : Word) :
    decodeOperand .filt imm = .ok i ↔ filtOfStrategy (byteOperand imm) = some i := by
  simp only [decodeOperand]
  cases filtOfStrategy (byteOperand imm) <;> simp

/-- No operand bit is dropped: by the class of the opcode, the immediate is 0, its byte operand, or the operand itself. -/
theorem encode_of_decodeOperand {imm : Word} (hr : o.immClass.reservedClear imm = true)
    (h : decodeOperand o imm = .ok i) : encode i = mkPacket o.toByte imm := by
  have hN : o.immClass = .N → imm = 0 := fun ho => (reservedClear_N_iff imm).1 (ho ▸ hr)
  have hB : o.immClass = .B → byteImm (byteOperand imm) = imm := fun ho => byteImm_byteOperand (ho ▸ hr)
  cases o with
  | filt => rw [encode_of_filtOfStrategy ((decodeOperand_filt_ok_iff imm).1 h), hB rfl]; rfl
  | rdreg | crcByte | linePush => cases h; rw [encode, hB rfl]; rfl
  | crcCheck | setSbc | setRowbytes => cases h; rfl
  | _ => cases h; rw [hN rfl]; rfl

/-- The encoder writes back the packet a command was decoded from (R77). -/
theorem encode_of_decode (h : decode p = .ok i) : encode i = p := by
  obtain ⟨o, ho, hr, hd⟩ := decode_ok_cases h
  rw [encode_of_decodeOperand hr hd, ho, mkPacket_opOf_immOf]

/-- Settles O55: the encoder is a left and a right inverse of the decoder. -/
theorem decodeEncodeAgree : Obligations.DecodeEncodeAgree :=
  fun _ i => ⟨encode_of_decode, fun h => h ▸ decode_encode i⟩

/-! The opcode table. -/

open Laws.WellFormedEncoding in
theorem wellFormedEncoding (i : Instr) : Statement i := by
  cases i with
  | rdreg r => exact rdreg r
  | crcByte b => exact crcByte b
  | linePush b => exact linePush b
  | crcCheck v => exact crcCheck v
  | setSbc n => exact setSbc n
  | setRowbytes n => exact setRowbytes n
  | nop => exact nop
  | reset => exact reset
  | crcInit => exact crcInit
  | crcRead => exact crcRead
  | prevZero => exact prevZero
  | linePop => exact linePop
  | defilt => exact defilt
  | filtNone => exact filtNone
  | filtSub => exact filtSub
  | filtUp => exact filtUp
  | filtAvg => exact filtAvg
  | filtPaeth => exact filtPaeth
  | filtAdapt => exact filtAdapt

/-- Under the mask of a byte operand only the byte operand is free: the packet is made of it and the row's opcode. -/
theorem eq_of_and_maskB {op : Byte} (h : p &&& 0xFFFFFFFF00 = mkPacket op 0) :
    mkPacket op (byteImm (byteOperand (immOf p))) = p := by
  obtain ⟨rfl, himm⟩ := mkPacket_inj ((and_maskB p).symm.trans h)
  rw [byteImm_byteOperand ((and_immMaskB_eq_zero_iff _).1 himm), mkPacket_opOf_immOf]

/-- Under the mask of a word operand only the immediate is free. -/
theorem eq_of_and_maskW {op : Byte} (h : p &&& 0xFF00000000 = mkPacket op 0) : mkPacket op (immOf p) = p := by
  obtain ⟨rfl, -⟩ := mkPacket_inj ((and_maskW p).symm.trans h)
  exact mkPacket_opOf_immOf p

/-- A packet that a row's mask turns into its match number is the packet of a command of that row. -/
theorem exists_encode_of_and_row {j : Instr} (h : p &&& j.row.2 = j.row.1) : ∃ i, encode i = p ∧ i.row = j.row := by
  have hN (h : p &&& 0xFFFFFFFFFF = encode j) : ∃ i, encode i = p ∧ i.row = j.row :=
    ⟨j, h.symm.trans (and_maskN p), rfl⟩
  cases j with
  | rdreg _ => exact ⟨.rdreg _, eq_of_and_maskB h, rfl⟩
  | crcByte _ => exact ⟨.crcByte _, eq_of_and_maskB h, rfl⟩
  | linePush _ => exact ⟨.linePush _, eq_of_and_maskB h, rfl⟩
  | crcCheck _ => exact ⟨.crcCheck _, eq_of_and_maskW h, rfl⟩
  | setSbc _ => exact ⟨.setSbc _, eq_of_and_maskW h, rfl⟩
  | setRowbytes _ => exact ⟨.setRowbytes _, eq_of_and_maskW h, rfl⟩
  | _ => exact hN h

/-- Settles O56: a command's packet lies in its row, and a packet of a row is the packet of a command of it. -/
theorem decodeFollowsMatchAndMask : Obligations.DecodeFollowsMatchAndMask := by
  intro p j
  constructor
  · rintro ⟨i, hd, hrow⟩
    obtain rfl := encode_of_decode hd
    exact hrow ▸ (wellFormedEncoding i).2
  · intro h
    obtain ⟨i, rfl, hrow⟩ := exists_encode_of_and_row h
    exact ⟨i, decode_encode i, hrow⟩

/-! Well-formedness. -/

/-- The opcodes of a class, as the lists of R77 give them. -/
def opsOf : ImmClass → List Byte
  | .N => WellFormed.opsN
  | .B => WellFormed.opsB
  | .W => WellFormed.opsW

theorem opcode_mem_all (o : Opcode) : o ∈ Opcode.all := by cases o <;> decide

theorem ofByte_eq_some_iff {b : Byte} : Opcode.ofByte b = some o ↔ o.toByte = b :=
  ⟨Opcode.toByte_of_ofByte, fun h => h ▸ Opcode.ofByte_toByte o⟩

/-- The lists of R77 are the numbers of the opcodes, sorted by class. -/
theorem opsOf_eq (c : ImmClass) : opsOf c = (Opcode.all.filter (·.immClass = c)).map Opcode.toByte := by
  cases c <;> rfl

theorem mem_opsOf_iff {c : ImmClass} {b : Byte} : b ∈ opsOf c ↔ ∃ o, Opcode.ofByte b = some o ∧ o.immClass = c := by
  simp [opsOf_eq, opcode_mem_all, ofByte_eq_some_iff, and_comm]

/-- An assigned opcode is in the list of its class, and in no other. -/
theorem exists_ofByte_iff (b : Byte) (q : ImmClass → Prop) :
    (∃ o, Opcode.ofByte b = some o ∧ q o.immClass) ↔
      (b ∈ opsOf .N ∧ q .N) ∨ (b ∈ opsOf .B ∧ q .B) ∨ (b ∈ opsOf .W ∧ q .W) := by
  simp only [mem_opsOf_iff]
  constructor
  · rintro ⟨o, ho, hq⟩
    cases hc : o.immClass with
    | N => exact .inl ⟨⟨o, ho, hc⟩, hc ▸ hq⟩
    | B => exact .inr (.inl ⟨⟨o, ho, hc⟩, hc ▸ hq⟩)
    | W => exact .inr (.inr ⟨⟨o, ho, hc⟩, hc ▸ hq⟩)
  · rintro (⟨⟨o, ho, hc⟩, hq⟩ | ⟨⟨o, ho, hc⟩, hq⟩ | ⟨⟨o, ho, hc⟩, hq⟩) <;> exact ⟨o, ho, hc ▸ hq⟩

/-- The bits of the packet that R76 looks at are the opcode and the reserved bits of the immediate. -/
theorem wellFormed_iff_mem_opsOf : p.wellFormed = true ↔
    (opOf p ∈ opsOf .N ∧ ImmClass.N.reservedClear (immOf p) = true) ∨
      (opOf p ∈ opsOf .B ∧ ImmClass.B.reservedClear (immOf p) = true) ∨
      (opOf p ∈ opsOf .W ∧ ImmClass.W.reservedClear (immOf p) = true) := by
  have hB : (immOf p).extractLsb' 8 24 = p.extractLsb' 8 24 := BitVec.extractLsb'_extractLsb'_of_le (by decide)
  simp only [ImmClass.reservedClear, hB]
  simp [Packet.wellFormed, opsOf, opOf, immOf, or_assoc]

theorem wellFormed_iff : p.wellFormed = true ↔
    ∃ o, Opcode.ofByte (opOf p) = some o ∧ o.immClass.reservedClear (immOf p) = true :=
  wellFormed_iff_mem_opsOf.trans (exists_ofByte_iff _ (·.reservedClear (immOf p) = true)).symm

/-- The two ways to be ill-formed: the opcode is not assigned, or a reserved bit is not 0. -/
theorem not_wellFormed_iff : p.wellFormed = false ↔
    Opcode.ofByte (opOf p) = none ∨
      ∃ o, Opcode.ofByte (opOf p) = some o ∧ o.immClass.reservedClear (immOf p) = false := by
  rw [← Bool.not_eq_true, wellFormed_iff]
  cases Opcode.ofByte (opOf p) <;> simp

theorem decode_of_wellFormed (h : p.wellFormed = true) : ∃ o, decode p = decodeOperand o (immOf p) := by
  obtain ⟨o, ho, hr⟩ := wellFormed_iff.1 h
  exact ⟨o, by simp only [decode, ho, hr, if_true]⟩

theorem decode_of_not_wellFormed (h : p.wellFormed = false) :
    ∃ r, decode p = .error r ∧ ∀ b, r ≠ .filtStrategy b := by
  rcases not_wellFormed_iff.1 h with ho | ⟨o, ho, hr⟩
  · exact ⟨.unassignedOpcode (opOf p), by simp only [decode, ho], nofun⟩
  · exact ⟨.reservedBits o (immOf p), by simp [decode, ho, hr], nofun⟩

/-- With the reserved bits clear, only the strategy byte of FILT can be rejected (R80). -/
theorem decodeOperand_ok_or_filtStrategy (o : Opcode) (imm : Word) :
    (∃ i, decodeOperand o imm = .ok i) ∨ ∃ b, decodeOperand o imm = .error (.filtStrategy b) := by
  cases o with
  | filt =>
    rw [decodeOperand]
    cases filtOfStrategy (byteOperand imm) with
    | some i => exact .inl ⟨i, rfl⟩
    | none => exact .inr ⟨_, rfl⟩
  | _ => exact .inl ⟨_, rfl⟩

/-- Settles O57: a well-formed packet is left to its operand, and an ill-formed one is rejected by another name. -/
theorem wellFormedAgreesWithDecoder : Obligations.WellFormedAgreesWithDecoder := by
  intro p
  cases hw : p.wellFormed with
  | true =>
    obtain ⟨o, hd⟩ := decode_of_wellFormed hw
    simpa only [hd, true_iff] using decodeOperand_ok_or_filtStrategy o (immOf p)
  | false =>
    obtain ⟨r, hd, hr⟩ := decode_of_not_wellFormed hw
    simpa [hd] using hr

/-- The opcodes that R81 lists by their ranges are those the table leaves unassigned. -/
theorem ofByte_eq_none_iff_ranges (b : Byte) : Opcode.ofByte b = none ↔
    (0x03 ≤ b.toNat ∧ b.toNat ≤ 0x0F) ∨ (0x14 ≤ b.toNat ∧ b.toNat ≤ 0x1F) ∨ (0x23 ≤ b.toNat ∧ b.toNat ≤ 0x2F) ∨
      (0x32 ≤ b.toNat ∧ b.toNat ≤ 0x3F) ∨ 0x42 ≤ b.toNat := by
  simp only [Opcode.ofByte, Opcode.all, List.find?_eq_none, List.forall_mem_cons, List.not_mem_nil, false_implies,
    implies_true, and_true, beq_iff_eq, Opcode.toByte, ← BitVec.toNat_inj, BitVec.reduceToNat]
  omega

theorem exists_reservedBits_iff (b : Byte) (imm : Word) :
    (∃ o, Opcode.ofByte b = some o ∧ o.immClass.reservedClear imm = false) ↔
      (b ∈ opsOf .N ∧ imm ≠ 0) ∨ (b ∈ opsOf .B ∧ 256 ≤ imm.toNat) := by
  have hN : imm ≠ 0 ↔ ImmClass.N.reservedClear imm = false := by
    rw [← Bool.not_eq_true, reservedClear_N_iff]
  have hB : 256 ≤ imm.toNat ↔ ImmClass.B.reservedClear imm = false := by
    rw [← Bool.not_eq_true, reservedClear_B_iff, Nat.not_lt]
  have hW : ImmClass.W.reservedClear imm = true := rfl
  rw [exists_ofByte_iff b (·.reservedClear imm = false), hN, hB]
  simp [hW]

/-! A step on the oldest packet. -/

theorem step_eq_execRejected {rest : List Packet} {r : Reject} (hr : s.resetAsserted = false)
    (hp : s.inbox = p :: rest) (hd : decode p = .error r) : step s = execRejected r (s.setInbox rest) := by
  simp [step, hr, hp, hd]

theorem execRejected_eq (r : Reject) (s : State) :
    execRejected r s = .next ((if s.err = .noError then s.setErr .invariantError else s).emit 0) := by
  rw [execRejected]
  split
  · next he => exact whenRunning_of_running he
  · next he => exact whenRunning_of_halted he

/-- Settles O7: setting the command port is all that a step does before it runs the command. -/
theorem stepRunsDecodedCommand : Obligations.StepRunsDecodedCommand :=
  fun _ _ _ _ => step_eq_exec

/-- Settles O11: the decoder rejects an ill-formed packet, and the two ways to be ill-formed are the ranges of unassigned
opcodes and the reserved bits of the classes N and B. -/
theorem illegalPacketRaisesInvariantError : Obligations.IllegalPacketRaisesInvariantError := by
  constructor
  · intro s p rest hreset hp hw
    obtain ⟨r, hd, -⟩ := decode_of_not_wellFormed hw
    rw [step_eq_execRejected hreset hp hd, execRejected_eq, State.setInbox_err]
    split <;> rfl
  · intro op imm
    rw [not_wellFormed_iff, opOf_mkPacket, immOf_mkPacket, ofByte_eq_none_iff_ranges, exists_reservedBits_iff]
    simp only [or_assoc]
    rfl

/-- From `s` to `t` exactly one response is produced and the command port stays. The ack is `ERR` of `t`; the data is 0 if
an error was raised, and with any error latched unless a register is read (R73, R75). -/
def AnsweredOnce (readsRegister : Prop) (s t : State) : Prop :=
  t.inbox = s.inbox ∧ ∃ d, t.outbox = s.outbox ++ [⟨t.ack, d⟩] ∧
    (s.err = .noError → t.err ≠ .noError → d = 0) ∧ (t.err ≠ .noError → ¬ readsRegister → d = 0)

theorem answeredOnce_emit_zero {c : Prop} (hi : t.inbox = s.inbox) (ho : t.outbox = s.outbox) :
    AnsweredOnce c s (t.emit 0) :=
  ⟨hi, 0, by rw [State.emit_outbox, ho]; rfl, fun _ _ => rfl, fun _ _ => rfl⟩

theorem answeredOnce_emit_of_noError {c : Prop} {d : Word} (he : t.err = .noError) (hi : t.inbox = s.inbox)
    (ho : t.outbox = s.outbox) : AnsweredOnce c s (t.emit d) :=
  ⟨hi, d, by rw [State.emit_outbox, ho]; rfl, fun _ h => absurd he h, fun h => absurd he h⟩

theorem answeredOnce_exec (h : exec i s = .next t) : AnsweredOnce (∃ r, i = .rdreg r) s t := by
  rcases exec_cases h with ⟨he, -, d, rfl, hd⟩ | ⟨e, -, -, rfl⟩ | ⟨-, rfl⟩ | ⟨he, -, u, d, rfl, hu, hi, ho, -⟩
  · exact ⟨rfl, d, rfl, fun hs => absurd hs he, fun _ => hd.resolve_right⟩
  · exact answeredOnce_emit_zero rfl rfl
  · exact answeredOnce_emit_zero rfl rfl
  · exact answeredOnce_emit_of_noError (hu.trans he) hi ho

theorem exists_answeredOnce_execRejected (r : Reject) (s : State) :
    ∃ t, execRejected r s = .next t ∧ AnsweredOnce False s t := by
  refine ⟨_, execRejected_eq r s, answeredOnce_emit_zero ?_ ?_⟩ <;> split <;> rfl

/-- In the states of R29 no command stops. -/
theorem exists_next_of_inv (hs : s.Inv) (i : Instr) : ∃ t, exec i s = .next t := by
  have hsafe := (admits_exec i s).2 hs
  cases h : exec i s with
  | next t => exact ⟨t, rfl⟩
  | fault f => rw [h] at hsafe; exact hsafe.elim
  | refused r => rw [h] at hsafe; exact hsafe.elim

theorem opOf_of_decode_rdreg {r : Byte} (h : decode p = .ok (.rdreg r)) : opOf p = 0x02 := by
  rw [← encode_of_decode h, encode, opOf_mkPacket]

/-- Every packet of the port is answered once, whether it stands for a command or not. -/
theorem exists_answeredOnce_step {rest : List Packet} (hs : s.Inv) (hreset : s.resetAsserted = false)
    (hp : s.inbox = p :: rest) : ∃ t, step s = .next t ∧ AnsweredOnce (opOf p = 0x02) (s.setInbox rest) t := by
  cases hd : decode p with
  | error r =>
    obtain ⟨t, ht, hi, d, ho, hraise, hdata⟩ := exists_answeredOnce_execRejected r (s.setInbox rest)
    exact ⟨t, (step_eq_execRejected hreset hp hd).trans ht, hi, d, ho, hraise, fun he _ => hdata he id⟩
  | ok i =>
    obtain ⟨t, ht⟩ := exists_next_of_inv (inv_setInbox hs rest) i
    obtain ⟨hi, d, ho, hraise, hdata⟩ := answeredOnce_exec ht
    refine ⟨t, (step_eq_exec hreset hp hd).trans ht, hi, d, ho, hraise, fun he hop => hdata he ?_⟩
    rintro ⟨r, rfl⟩
    exact hop (opOf_of_decode_rdreg hd)

/-- Settles O5: taking the packet changes neither `ERR` nor the responses produced so far. -/
theorem everyPacketGetsOneResponse : Obligations.EveryPacketGetsOneResponse := by
  intro s p rest hs hreset hp
  obtain ⟨t, ht, hi, d, ho, hraise, hdata⟩ := exists_answeredOnce_step hs hreset hp
  exact ⟨t, d, ht, hi, ho, hraise, hdata⟩

/-! The byte form. -/

theorem packetBytes_eq (p : Packet) : packetBytes p =
    [opOf p, (immOf p).extractLsb' 24 8, (immOf p).extractLsb' 16 8, (immOf p).extractLsb' 8 8,
      (immOf p).extractLsb' 0 8] := by
  simp [packetBytes, opOf, immOf, BitVec.extractLsb'_extractLsb'_of_le]

theorem append_bytes_eq (v : Word) :
    ((v.extractLsb' 24 8 ++ v.extractLsb' 16 8 : BitVec 16) ++ (v.extractLsb' 8 8 ++ v.extractLsb' 0 8 : BitVec 16) :
      BitVec 32) = v := by
  have hhi : v.extractLsb' 24 8 ++ v.extractLsb' 16 8 = v.extractLsb' 16 16 :=
    BitVec.extractLsb'_append_extractLsb'_eq_extractLsb' rfl
  have hlo : v.extractLsb' 8 8 ++ v.extractLsb' 0 8 = v.extractLsb' 0 16 :=
    BitVec.extractLsb'_append_extractLsb'_eq_extractLsb' rfl
  rw [hhi, hlo]
  exact BitVec.extractLsb'_append_extractLsb'

/-- The decoder of a byte sequence puts a packet's own bytes together again. -/
theorem decodeBytes_packetBytes_append (h : decode p = .ok i) (rest : List Byte) :
    decodeBytes (packetBytes p ++ rest) = .command i rest := by
  simp only [packetBytes_eq, List.cons_append, List.nil_append, decodeBytes, packetOfBytes, append_bytes_eq,
    mkPacket_opOf_immOf, h]

/-- Settles O58: a response is the packet of its ack and its data, so both forms are that of a packet's fields. -/
theorem byteFormDecodes : Obligations.ByteFormDecodes := by
  refine ⟨fun i rest => ⟨packetBytes_eq _, decodeBytes_packetBytes_append (decode_encode i) rest⟩, fun r => ?_⟩
  have hr : r.bytes = packetBytes (mkPacket r.ack r.data) := rfl
  rw [hr, packetBytes_eq, opOf_mkPacket, immOf_mkPacket]

/-- Settles O59: the words of commands are those the encoder writes; the other two are rejected by computation. -/
theorem wordsOfEachFamilyDecode : Obligations.WordsOfEachFamilyDecode :=
  ⟨decode_encode (.rdreg 5), decode_encode (.crcByte 0x49), decode_encode (.crcCheck 0xAE426082),
    decode_encode (.setRowbytes 6), decode_encode (.linePush 0xDC), decode_encode .defilt, decode_encode .filtAvg,
    decode_encode .filtAdapt, rfl, rfl⟩

end Sys2Proof.Proofs
end

section
/-! Statements of the CRC unit (`40_crc.md`): its four commands, the table form of the update, the checksum of a byte
sequence, the flipped bit that it detects, and the independence of the CRC unit from the filter unit. -/

namespace Sys2Proof.Proofs

open Sys2Proof.Machine

variable {s t : State} {i : Instr} {x : Word}

/-! The packets. -/

theorem mkPacket_eq_add (op : Byte) (imm : Word) : mkPacket op imm = mkPacket op 0 + imm.setWidth 40 := by
  have hop := op.isLt
  have himm := imm.isLt
  have hzero : (0 : Word).toNat = 0 := rfl
  apply BitVec.eq_of_toNat_eq
  simp only [BitVec.toNat_add, mkPacket_toNat, BitVec.toNat_setWidth, hzero]
  omega

theorem byteImm_eq_setWidth (b : Byte) : byteImm b = b.setWidth 32 := by
  apply BitVec.eq_of_toNat_eq
  rw [byteImm_toNat, BitVec.toNat_setWidth_of_le (by decide)]

/-! The commands of a running engine. -/

theorem emit_of_noError (he : s.err = .noError) (d : Word) : s.emit d = { s with outbox := s.outbox ++ [⟨0, d⟩] } := by
  rw [State.emit, State.ack_of_noError he]

theorem exec_crcInit_of_running (he : s.err = .noError) :
    exec .crcInit s = .next { s with acc := 0xFFFFFFFF, outbox := s.outbox ++ [⟨0, 0⟩] } := by
  show execCrcInit s = _
  rw [execCrcInit, whenRunning_of_running he, done_eq, emit_of_noError ((s.setAcc_err _).trans he)]
  rfl

theorem exec_crcByte_of_running (he : s.err = .noError) (b : Byte) :
    exec (.crcByte b) s = .next { s with acc := crcUpdate s.acc b, outbox := s.outbox ++ [⟨0, 0⟩] } := by
  show execCrcByte b s = _
  rw [execCrcByte, whenRunning_of_running he, done_eq, emit_of_noError ((s.setAcc_err _).trans he)]
  rfl

theorem exec_crcRead_of_running (he : s.err = .noError) :
    exec .crcRead s = .next { s with outbox := s.outbox ++ [⟨0, crcFinal s.acc⟩] } := by
  show execCrcRead s = _
  rw [execCrcRead, whenRunning_of_running he, respond_eq, emit_of_noError he]

theorem exec_crcCheck_of_running (he : s.err = .noError) (v : Word) :
    exec (.crcCheck v) s = if crcFinal s.acc = v then done s else raise .corruptionError s := by
  show execCrcCheck v s = _
  rw [execCrcCheck, whenRunning_of_running he]

theorem exec_crcCheck_of_match {v : Word} (he : s.err = .noError) (hv : crcFinal s.acc = v) :
    exec (.crcCheck v) s = .next { s with outbox := s.outbox ++ [⟨0, 0⟩] } := by
  rw [exec_crcCheck_of_running he, if_pos hv, done_eq, emit_of_noError he]

theorem exec_crcCheck_of_mismatch {v : Word} (he : s.err = .noError) (hv : crcFinal s.acc ≠ v) :
    exec (.crcCheck v) s = .next { s with err := .corruptionError, outbox := s.outbox ++ [⟨2, 0⟩] } := by
  rw [exec_crcCheck_of_running he, if_neg hv]
  rfl

/-- Settles O21: past the halted test CRC_INIT sets `ACC` and responds. -/
theorem crcInitSetsAcc : Obligations.CrcInitSetsAcc := ⟨rfl, fun _ => exec_crcInit_of_running⟩

/-- Settles O22: the packet is the opcode above a byte immediate, and past the halted test CRC_BYTE updates `ACC`. -/
theorem crcByteAbsorbsByte : Obligations.CrcByteAbsorbsByte := by
  refine fun b => ⟨?_, fun s he => exec_crcByte_of_running he b⟩
  calc encode (.crcByte b)
    _ = mkPacket 0x11 0 + (byteImm b).setWidth 40 := mkPacket_eq_add _ _
    _ = 0x1100000000 + b.setWidth 40 := by
      rw [byteImm_eq_setWidth, BitVec.setWidth_setWidth (by decide)]
      rfl

/-- Settles O23: past the halted test CRC_READ responds, and nothing else. -/
theorem crcReadRespondsComplement : Obligations.CrcReadRespondsComplement :=
  ⟨rfl, fun _ => exec_crcRead_of_running⟩

/-- Settles O24: the checksum of `ACC` matches the operand or it does not. -/
theorem crcCheckComparesChecksum : Obligations.CrcCheckComparesChecksum := by
  refine fun v => ⟨mkPacket_eq_add 0x13 v, fun s he => ?_⟩
  split
  · next hv => exact exec_crcCheck_of_match he hv
  · next hv => exact exec_crcCheck_of_mismatch he hv

/-! The update as a function of the accumulator: it is linear over xor, on a word whose low bits are 0 it only shifts,
and it loses nothing. -/

/-- One shift in a form without cases on the whole word (R100). -/
theorem crcShift_eq (x : Word) : crcShift x = (x >>> 1) ^^^ (if x.getLsbD 0 then 0xEDB88320 else 0) := by
  rw [crcShift]
  split <;> simp

theorem crcShift_xor (x y : Word) : crcShift (x ^^^ y) = crcShift x ^^^ crcShift y := by
  simp only [crcShift_eq, BitVec.getLsbD_xor, BitVec.ushiftRight_xor_distrib]
  have hout : (if x.getLsbD 0 ^^ y.getLsbD 0 then 0xEDB88320 else 0 : Word) =
      (if x.getLsbD 0 then 0xEDB88320 else 0) ^^^ (if y.getLsbD 0 then 0xEDB88320 else 0) := by
    cases x.getLsbD 0 <;> cases y.getLsbD 0 <;> rfl
  rw [hout]
  ac_rfl

theorem crcShifts_xor (k : Nat) (x y : Word) : crcShifts k (x ^^^ y) = crcShifts k x ^^^ crcShifts k y := by
  induction k generalizing x y with
  | zero => rfl
  | succ k ih => simp only [crcShifts, crcShift_xor, ih]

theorem crcShift_of_even (h : x.getLsbD 0 = false) : crcShift x = x >>> 1 := by
  rw [crcShift, h, if_neg Bool.false_ne_true]

theorem crcShifts_of_low_bits_zero {k : Nat} (h : ∀ j < k, x.getLsbD j = false) : crcShifts k x = x >>> k := by
  induction k generalizing x with
  | zero => simp [crcShifts]
  | succ k ih =>
    have hshifted : ∀ j < k, (x >>> 1).getLsbD j = false := fun j hj => by
      rw [BitVec.getLsbD_ushiftRight]
      exact h _ (by omega)
    rw [crcShifts, crcShift_of_even (h 0 k.succ_pos), ih hshifted, ← BitVec.shiftRight_add, Nat.add_comm]

theorem getLsbD_and_0xFF (x : Word) (j : Nat) : (x &&& 0xFF).getLsbD j = (decide (j < 8) && x.getLsbD j) := by
  have hmask : (0xFF : Word) = (BitVec.allOnes 8).setWidth 32 := by decide
  rw [hmask, BitVec.getLsbD_and, BitVec.getLsbD_setWidth, BitVec.getLsbD_allOnes, Bool.and_comm]
  by_cases hj : j < 8
  · simp [hj, show j < 32 by omega]
  · simp [hj]

/-- The rest of a word after its low byte: the byte that entered is in the low byte only. -/
theorem xor_low_byte_ushiftRight (acc : Word) (b : Byte) :
    ((acc ^^^ b.setWidth 32) ^^^ ((acc ^^^ b.setWidth 32) &&& 0xFF)) >>> 8 = acc >>> 8 := by
  apply BitVec.eq_of_getLsbD_eq
  intro j _
  have hb : b.getLsbD (8 + j) = false := BitVec.getLsbD_of_ge _ _ (by omega)
  simp only [BitVec.getLsbD_ushiftRight, BitVec.getLsbD_xor, getLsbD_and_0xFF, BitVec.getLsbD_setWidth, hb]
  simp

/-- Settles O25: by linearity the low byte and the rest of the word are shifted apart, and the eight shifts of the rest are
a shift by eight. -/
theorem crcUpdateTableForm : Obligations.CrcUpdateTableForm := by
  intro acc b
  set x := acc ^^^ b.setWidth 32 with hx
  have hrest : ∀ j < 8, (x ^^^ (x &&& 0xFF)).getLsbD j = false := fun j hj => by
    simp only [BitVec.getLsbD_xor, getLsbD_and_0xFF, hj, decide_true, Bool.true_and, Bool.xor_self]
  calc crcUpdate acc b
    _ = crcShifts 8 ((x &&& 0xFF) ^^^ (x ^^^ (x &&& 0xFF))) := by
      rw [crcUpdate, BitVec.xor_comm x, ← BitVec.xor_assoc, BitVec.xor_self, BitVec.zero_xor]
    _ = crcShifts 8 (x &&& 0xFF) ^^^ crcShifts 8 (x ^^^ (x &&& 0xFF)) := crcShifts_xor _ _ _
    _ = crcShifts 8 (x &&& 0xFF) ^^^ (acc >>> 8) := by
      rw [crcShifts_of_low_bits_zero hrest, hx, xor_low_byte_ushiftRight]

/-- The bit shifted out is the top bit of the result: bit 31 of the constant of R100 is 1. -/
theorem getLsbD_crcShift_31 (x : Word) : (crcShift x).getLsbD 31 = x.getLsbD 0 := by
  have htop : (0xEDB88320 : Word).getLsbD 31 = true := by decide
  have hshift : (x >>> 1).getLsbD 31 = false := by simp
  rw [crcShift_eq, BitVec.getLsbD_xor, hshift]
  cases x.getLsbD 0
  · rfl
  · exact htop

theorem crcShift_injective : Function.Injective crcShift := by
  intro x y h
  have hout : x.getLsbD 0 = y.getLsbD 0 := by rw [← getLsbD_crcShift_31, h, getLsbD_crcShift_31]
  have hrest : x >>> 1 = y >>> 1 := by
    rw [crcShift_eq, crcShift_eq, hout] at h
    exact (BitVec.xor_left_inj _).1 h
  apply BitVec.eq_of_getLsbD_eq
  intro j _
  cases j with
  | zero => exact hout
  | succ j => simpa [Nat.add_comm] using congrArg (·.getLsbD j) hrest

theorem crcShifts_injective (k : Nat) : Function.Injective (crcShifts k) := by
  induction k with
  | zero => exact Function.injective_id
  | succ k ih => exact ih.comp crcShift_injective

theorem crcUpdate_injective_acc (b : Byte) : Function.Injective (crcUpdate · b) := fun _ _ h =>
  (BitVec.xor_left_inj _).1 (crcShifts_injective 8 h)

theorem crcUpdate_injective_byte (acc : Word) : Function.Injective (crcUpdate acc) := by
  intro b c h
  have hword : b.setWidth 32 = c.setWidth 32 := (BitVec.xor_right_inj _).1 (crcShifts_injective 8 h)
  simpa using congrArg (BitVec.setWidth 8) hword

theorem foldl_crcUpdate_injective (bs : List Byte) : Function.Injective (bs.foldl crcUpdate ·) := by
  induction bs with
  | nil => exact Function.injective_id
  | cons b bs ih => exact ih.comp (crcUpdate_injective_acc b)

theorem crcFinal_injective : Function.Injective crcFinal := fun _ _ => (BitVec.xor_left_inj _).1

/-! A flipped bit. -/

theorem xor_one_shiftLeft_ne {w k : Nat} (v : BitVec w) (hk : k < w) : v ^^^ (1#w <<< k) ≠ v := by
  intro h
  have hbit := congrArg (·.getLsbD k) h
  simp [← BitVec.twoPow_eq, hk] at hbit

/-- Sequences that differ in one byte have different checksums: the update tells the two bytes apart, and the bytes after
them keep the accumulators apart. -/
theorem crc32_ne_of_byte_ne (before after : List Byte) {b c : Byte} (h : b ≠ c) :
    crc32 (before ++ b :: after) ≠ crc32 (before ++ c :: after) := by
  intro heq
  have hfold := crcFinal_injective heq
  simp only [List.foldl_append, List.foldl_cons] at hfold
  exact h (crcUpdate_injective_byte _ (foldl_crcUpdate_injective after hfold))

theorem crcFinal_of_acc {bs : List Byte} (h : s.acc = bs.foldl crcUpdate 0xFFFFFFFF) : crcFinal s.acc = crc32 bs :=
  congrArg crcFinal h

/-- Settles O28: a flipped bit makes another byte or another word, and CRC_CHECK sees the mismatch. -/
theorem singleBitFlipIsDetected : Obligations.SingleBitFlipIsDetected := by
  constructor
  · intro before after b k hk good bad
    have hne : crc32 good ≠ crc32 bad := crc32_ne_of_byte_ne before after (xor_one_shiftLeft_ne b hk).symm
    exact ⟨hne, fun s he ha => exec_crcCheck_of_mismatch he (crcFinal_of_acc ha ▸ hne.symm)⟩
  · intro bs k s hk he ha
    exact exec_crcCheck_of_mismatch he (crcFinal_of_acc ha ▸ (xor_one_shiftLeft_ne _ hk).symm)

/-! The filter unit. -/

/-- The rule answers from `ACC` and `ERR` alone and writes nothing else: it makes of the two the new `ACC`, the new `ERR`
and the data of the response. -/
def ActsOnCrcUnit (rule : State → Result) : Prop :=
  ∃ effect : Word → ErrCode → Word × ErrCode × Word, ∀ s : State,
    let (a, e, d) := effect s.acc s.err
    rule s = respond d ((s.setAcc a).setErr e)

theorem actsOnCrcUnit_setAcc (f : Word → Word) : ActsOnCrcUnit fun s => done (s.setAcc (f s.acc)) :=
  ⟨fun a e => (f a, e, 0), fun _ => rfl⟩

theorem actsOnCrcUnit_respond (f : Word → Word) : ActsOnCrcUnit fun s => respond (f s.acc) s :=
  ⟨fun a e => (a, e, f a), fun _ => rfl⟩

theorem actsOnCrcUnit_done : ActsOnCrcUnit done := actsOnCrcUnit_respond fun _ => 0

theorem actsOnCrcUnit_raise (e : ErrCode) : ActsOnCrcUnit (raise e) := ⟨fun a _ => (a, e, 0), fun _ => rfl⟩

theorem actsOnCrcUnit_ite {rule rule' : State → Result} (c : Word → ErrCode → Prop) [∀ a e, Decidable (c a e)]
    (h : ActsOnCrcUnit rule) (h' : ActsOnCrcUnit rule') :
    ActsOnCrcUnit fun s => if c s.acc s.err then rule s else rule' s := by
  obtain ⟨effect, heffect⟩ := h
  obtain ⟨effect', heffect'⟩ := h'
  refine ⟨fun a e => if c a e then effect a e else effect' a e, fun s => ?_⟩
  by_cases hc : c s.acc s.err
  · simpa only [hc, if_true] using heffect s
  · simpa only [hc, if_false] using heffect' s

theorem actsOnCrcUnit_whenRunning {rule : State → Result} (h : ActsOnCrcUnit rule) :
    ActsOnCrcUnit (whenRunning · rule) :=
  actsOnCrcUnit_ite (fun _ e => (e != .noError) = true) actsOnCrcUnit_done h

theorem actsOnCrcUnit_exec {b : Byte} {v : Word} (hi : i ∈ [Instr.crcInit, .crcByte b, .crcRead, .crcCheck v]) :
    ActsOnCrcUnit (exec i) := by
  simp only [List.mem_cons, List.not_mem_nil, or_false] at hi
  rcases hi with rfl | rfl | rfl | rfl
  · exact actsOnCrcUnit_whenRunning <| actsOnCrcUnit_setAcc fun _ => 0xFFFFFFFF
  · exact actsOnCrcUnit_whenRunning <| actsOnCrcUnit_setAcc (crcUpdate · b)
  · exact actsOnCrcUnit_whenRunning <| actsOnCrcUnit_respond crcFinal
  · exact actsOnCrcUnit_whenRunning <|
      actsOnCrcUnit_ite (fun a _ => crcFinal a = v) actsOnCrcUnit_done (actsOnCrcUnit_raise .corruptionError)

/-- Settles O29: the two states agree on all that the effect of a CRC command is made from. -/
theorem crcCommandsIgnoreFilterUnit : Obligations.CrcCommandsIgnoreFilterUnit := by
  intro b v i hi s s' ha he
  obtain ⟨effect, heffect⟩ := actsOnCrcUnit_exec hi
  have hs' := heffect s'
  rw [ha, he] at hs'
  exact ⟨_, _, _, heffect s, hs'⟩

/-! The checksum of a run of commands. -/

theorem runCommands_append (is js : List Instr) (s : State) :
    runCommands (is ++ js) s = andThen (runCommands is s) (runCommands js) := by
  induction is generalizing s with
  | nil => rfl
  | cons i is ih =>
    rw [List.cons_append, runCommands_cons, runCommands_cons]
    cases exec i s with
    | next t => exact ih t
    | fault x => rfl
    | refused x => rfl

theorem andThen_eq_next {r : Result} {rule : State → Result} (h : andThen r rule = .next t) :
    ∃ u, r = .next u ∧ rule u = .next t := by
  cases r with
  | next u => exact ⟨u, rfl, h⟩
  | fault x => cases h
  | refused x => cases h

theorem runCommands_crcBytes (bs : List Byte) (he : s.err = .noError) :
    runCommands (crcBytes bs) s = .next { s with
      acc := bs.foldl crcUpdate s.acc, outbox := s.outbox ++ List.replicate bs.length ⟨0, 0⟩ } := by
  induction bs generalizing s with
  | nil => simp [crcBytes, runCommands]
  | cons b bs ih =>
    show runCommands (.crcByte b :: crcBytes bs) s = _
    rw [runCommands_cons, exec_crcByte_of_running he, andThen, ih]
    · simp [List.replicate_succ]
    · exact he

theorem runCommands_crcOf (bs : List Byte) (he : s.err = .noError) :
    runCommands (crcOf bs) s = .next { s with
      acc := bs.foldl crcUpdate 0xFFFFFFFF,
      outbox := s.outbox ++ (List.replicate (bs.length + 1) ⟨0, 0⟩ ++
        [⟨0, crcFinal (bs.foldl crcUpdate 0xFFFFFFFF)⟩]) } := by
  rw [crcOf, List.cons_append, runCommands_cons, exec_crcInit_of_running he, andThen, runCommands_append,
    runCommands_crcBytes, andThen, runCommands_cons, exec_crcRead_of_running]
  · simp [andThen, runCommands, List.replicate_succ]
  · exact he
  · exact he

/-- A command that ends with no error latched began with none, unless it is RESET (R225). -/
theorem noError_of_exec (hi : i ≠ .reset) (h : exec i s = .next t) (ht : t.err = .noError) : s.err = .noError := by
  rcases exec_cases h with ⟨-, -, d, rfl, -⟩ | ⟨e, -, he, rfl⟩ | ⟨hreset, -⟩ | ⟨he, -⟩
  · exact ht
  · exact absurd ht he
  · exact absurd hreset hi
  · exact he

/-- Of the commands but RESET and CRC_INIT only CRC_BYTE changes `ACC` (R61, R102). -/
theorem acc_of_exec (hreset : i ≠ .reset) (hinit : i ≠ .crcInit) (he : s.err = .noError) (h : exec i s = .next t) :
    t.acc = (absorbedByte? i).elim s.acc (crcUpdate s.acc) := by
  cases i with
  | reset => exact absurd rfl hreset
  | crcInit => exact absurd rfl hinit
  | crcByte b =>
    rw [exec_crcByte_of_running he] at h
    cases h
    rfl
  | crcRead =>
    rw [exec_crcRead_of_running he] at h
    cases h
    rfl
  | crcCheck v => rcases execCrcCheck_cases h with ⟨-, rfl⟩ | ⟨-, -, rfl⟩ | ⟨-, -, rfl⟩ <;> rfl
  | _ => exact acc_of_commutesWith (exec_setAcc rfl) h

/-- A run without RESET and CRC_INIT that ends with no error began with none, and absorbed the bytes of its CRC_BYTE
commands in order. -/
theorem acc_of_runCommands {cs : List Instr} (hcs : ∀ i ∈ cs, i ≠ .reset ∧ i ≠ .crcInit)
    (h : runCommands cs s = .next t) (ht : t.err = .noError) :
    s.err = .noError ∧ t.acc = (cs.filterMap absorbedByte?).foldl crcUpdate s.acc := by
  induction cs generalizing s with
  | nil =>
    cases h
    exact ⟨ht, rfl⟩
  | cons i cs ih =>
    obtain ⟨⟨hreset, hinit⟩, hrest⟩ := List.forall_mem_cons.1 hcs
    obtain ⟨u, hu, hrun⟩ := andThen_eq_next (runCommands_cons i cs s ▸ h)
    obtain ⟨hue, hacc⟩ := ih hrest hrun
    have he := noError_of_exec hreset hu hue
    refine ⟨he, ?_⟩
    rw [hacc, acc_of_exec hreset hinit he hu, List.filterMap_cons]
    cases absorbedByte? i <;> rfl

/-- CRC_READ answers with no error latched: the last response is the checksum of `ACC`. -/
theorem getLast?_outbox_of_crcRead (h : exec .crcRead s = .next t) (ht : t.err = .noError) :
    s.err = .noError ∧ t.outbox.getLast? = some ⟨0, crcFinal s.acc⟩ := by
  have he := noError_of_exec (i := .crcRead) nofun h ht
  rw [exec_crcRead_of_running he] at h
  cases h
  exact ⟨he, List.getLast?_concat⟩

/-- Settles O27: CRC_INIT starts the accumulator, the commands between absorb their bytes into it, and CRC_READ responds
with its checksum. -/
theorem checksumOfSequence : Obligations.ChecksumOfSequence := by
  refine ⟨fun bs s he => runCommands_crcOf bs he, fun cs s t he hcs h ht => ?_⟩
  rw [List.cons_append, runCommands_cons, exec_crcInit_of_running he, andThen, runCommands_append] at h
  obtain ⟨u, hu, hread⟩ := andThen_eq_next h
  rw [runCommands_cons] at hread
  obtain ⟨t', hread, hend⟩ := andThen_eq_next hread
  cases hend
  obtain ⟨hue, hlast⟩ := getLast?_outbox_of_crcRead hread ht
  obtain ⟨-, hacc⟩ := acc_of_runCommands hcs hu hue
  rw [hlast, crcFinal_of_acc hacc]

end Sys2Proof.Proofs
end

section
/-! Statements of filter-unit configuration and line transfer (`41_line_transfer.md`): the three configuration commands, the
push and the pop of one byte, the commands out of their phase, and the transfer of a whole line in each direction. -/

namespace Sys2Proof.Proofs

open Sys2Proof.Machine

variable {s : State} {n : Word} {b : Byte} {p : Phase} {rule : State → Result}

/-! Commands that the unit does not accept. By the definition of `raise`, the answer `raise .invariantError s` is `s` with
the code latched and with the response of ack 3 and data 0, and nothing else changed (R226). -/

theorem raises_of_phase_ne (he : s.err = .noError) (hp : s.phase ≠ p) :
    (whenRunning s fun s => inPhase p s rule) = raise .invariantError s := by
  rw [whenRunning_of_running he, inPhase_of_ne hp]

/-- The shape of SET_SBC and SET_ROWBYTES: an operand out of range and a busy unit raise alike (R120, R121, R228). -/
theorem raises_of_outOfRange_or_busy {out : Prop} [Decidable out] (h : out ∨ ¬(s.phase = .load ∧ s.wp = 0)) :
    (if out then raise .invariantError s else whenIdle s rule) = raise .invariantError s := by
  split
  · rfl
  · next hin => exact whenIdle_of_busy (h.resolve_left hin)

theorem exec_setSbc_of_unaccepted (he : s.err = .noError)
    (h : n.toNat = 0 ∨ 64 < n.toNat ∨ ¬(s.phase = .load ∧ s.wp = 0)) :
    exec (.setSbc n) s = raise .invariantError s := by
  show execSetSbc n s = _
  rw [execSetSbc, whenRunning_of_running he, raises_of_outOfRange_or_busy (by rwa [Nat.lt_one_iff, or_assoc])]

theorem exec_setRowbytes_of_unaccepted (he : s.err = .noError)
    (h : n.toNat = 0 ∨ Config.MAXROW < n.toNat ∨ ¬(s.phase = .load ∧ s.wp = 0)) :
    exec (.setRowbytes n) s = raise .invariantError s := by
  show execSetRowbytes n s = _
  rw [execSetRowbytes, whenRunning_of_running he, raises_of_outOfRange_or_busy (by rwa [Nat.lt_one_iff, or_assoc])]

theorem exec_prevZero_of_busy (he : s.err = .noError) (h : ¬(s.phase = .load ∧ s.wp = 0)) :
    exec .prevZero s = raise .invariantError s := by
  show execPrevZero s = _
  rw [execPrevZero, whenRunning_of_running he, whenIdle_of_busy h]

theorem exec_linePush_of_phase_ne (he : s.err = .noError) (hp : s.phase ≠ .load) (b : Byte) :
    exec (.linePush b) s = raise .invariantError s := raises_of_phase_ne he hp

theorem exec_linePop_of_phase_ne (he : s.err = .noError) (hp : s.phase ≠ .drain) :
    exec .linePop s = raise .invariantError s := raises_of_phase_ne he hp

theorem exec_defilt_of_phase_ne (he : s.err = .noError) (hp : s.phase ≠ .full) :
    exec .defilt s = raise .invariantError s := raises_of_phase_ne he hp

/-- The six FILT commands differ in the line alone (R170). -/
theorem exists_exec_eq_filt {f : Instr} (hf : f ∈ filtInstrs) : ∃ line, exec f = filt line := by
  simp only [filtInstrs, List.mem_cons, List.not_mem_nil, or_false] at hf
  rcases hf with rfl | rfl | rfl | rfl | rfl | rfl <;> exact ⟨_, rfl⟩

theorem exec_filt_of_phase_ne {f : Instr} (hf : f ∈ filtInstrs) (he : s.err = .noError) (hp : s.phase ≠ .full) :
    exec f s = raise .invariantError s := by
  obtain ⟨line, hline⟩ := exists_exec_eq_filt hf
  rw [hline]
  exact raises_of_phase_ne he hp

/-- Settles O16: each command by its own test, that the unit is idle or that it is in the command's phase. -/
theorem outOfPhaseRaisesInvariantError : Obligations.OutOfPhaseRaisesInvariantError := fun _ he =>
  ⟨fun hbusy => ⟨fun _ => exec_setSbc_of_unaccepted he (.inr (.inr hbusy)),
      fun _ => exec_setRowbytes_of_unaccepted he (.inr (.inr hbusy)), exec_prevZero_of_busy he hbusy⟩,
    fun hp => exec_linePush_of_phase_ne he hp,
    fun hp => ⟨exec_defilt_of_phase_ne he hp, fun _ hf => exec_filt_of_phase_ne hf he hp⟩,
    fun hp => exec_linePop_of_phase_ne he hp⟩

/-! Configuration of an idle unit. -/

theorem read?_zeros (n i : Nat) : (LineMem.zeros n).read? i = if i < n then some 0 else none :=
  LineMem.read?_ofFn n _ i

theorem exec_setSbc_of_idle (he : s.err = .noError) (h1 : 1 ≤ n.toNat) (h64 : n.toNat ≤ 64) (hp : s.phase = .load)
    (hw : s.wp = 0) :
    exec (.setSbc n) s = .next { s with
      sbc := n.setWidth 7, prev := LineMem.zeros s.llen, outbox := s.outbox ++ [⟨0, 0⟩] } := by
  show execSetSbc n s = _
  rw [execSetSbc, whenRunning_of_running he, if_neg (by omega), whenIdle_of_idle hp hw, done_eq, emit_of_noError]
  · rfl
  · exact he

theorem exec_setRowbytes_of_idle (he : s.err = .noError) (h1 : 1 ≤ n.toNat) (hmax : n.toNat ≤ Config.MAXROW)
    (hp : s.phase = .load) (hw : s.wp = 0) :
    exec (.setRowbytes n) s = .next { s with
      rowBytes := n, prev := LineMem.zeros (n.toNat + 1), outbox := s.outbox ++ [⟨0, 0⟩] } := by
  show execSetRowbytes n s = _
  rw [execSetRowbytes, whenRunning_of_running he, if_neg (by omega), whenIdle_of_idle hp hw, done_eq, emit_of_noError]
  · rfl
  · exact he

theorem exec_prevZero_of_idle (he : s.err = .noError) (hp : s.phase = .load) (hw : s.wp = 0) :
    exec .prevZero s = .next { s with prev := LineMem.zeros s.llen, outbox := s.outbox ++ [⟨0, 0⟩] } := by
  show execPrevZero s = _
  rw [execPrevZero, whenRunning_of_running he, whenIdle_of_idle hp hw, done_eq, emit_of_noError]
  · rfl
  · exact he

/-- Settles O31: the operand is in range and the unit idle, or SET_SBC raises. -/
theorem setSbcConfigures : Obligations.SetSbcConfigures := by
  refine fun n => ⟨mkPacket_eq_add 0x20 n, fun _ he => ⟨fun h1 h64 hp hw => ?_, fun h => ?_⟩⟩
  · rw [BitVec.ofNat_toNat]
    exact ⟨_, exec_setSbc_of_idle he h1 h64 hp hw, read?_zeros _⟩
  · exact exec_setSbc_of_unaccepted he (by rwa [not_and_or])

/-- Settles O32: the operand is in range and the unit idle, or SET_ROWBYTES raises. -/
theorem setRowbytesConfigures : Obligations.SetRowbytesConfigures := by
  refine fun n => ⟨mkPacket_eq_add 0x21 n, fun _ he => ⟨fun h1 hmax hp hw => ?_, fun h => ?_⟩⟩
  · exact ⟨_, exec_setRowbytes_of_idle he h1 hmax hp hw, read?_zeros _⟩
  · exact exec_setRowbytes_of_unaccepted he (by rwa [not_and_or])

/-- Settles O34: the unit is idle, or PREV_ZERO raises. -/
theorem prevZeroClearsPrev : Obligations.PrevZeroClearsPrev :=
  ⟨rfl, fun _ he => ⟨fun hp hw => ⟨_, exec_prevZero_of_idle he hp hw, read?_zeros _⟩,
    fun h => exec_prevZero_of_busy he (not_and_or.2 h)⟩⟩

/-! One byte into the line and one out of it. -/

theorem mkPacket_byteImm_eq_add (op b : Byte) : mkPacket op (byteImm b) = mkPacket op 0 + b.setWidth 40 := by
  rw [mkPacket_eq_add, byteImm_eq_setWidth, BitVec.setWidth_setWidth (by decide)]

theorem pushByte_eq (hp : s.phase = .load) (b : Byte) :
    pushByte b s = { s with
      cur := s.cur.write s.wp.toNat b, wp := s.wp + 1,
      phase := if s.wp.toNat + 1 = s.llen then .full else .load } := by
  unfold pushByte
  split
  · rfl
  · rw [← hp]; rfl

theorem exec_linePush_of_load (he : s.err = .noError) (hp : s.phase = .load) (hw : s.wp.toNat < s.llen) (b : Byte) :
    exec (.linePush b) s = .next { s with
      cur := s.cur.write s.wp.toNat b, wp := s.wp + 1,
      phase := if s.wp.toNat + 1 = s.llen then .full else .load, outbox := s.outbox ++ [⟨0, 0⟩] } := by
  show execLinePush b s = _
  rw [execLinePush, whenRunning_of_running he, inPhase_of_eq hp, if_pos hw, done_eq, pushByte_eq hp, emit_of_noError]
  exact he

theorem exec_linePop_of_drain (he : s.err = .noError) (hp : s.phase = .drain) (hr : s.rp.toNat < s.llen) :
    exec .linePop s = .next (
      if s.rp.toNat + 1 = s.llen
      then { s with
        phase := .load, wp := 0, rp := 0, cur := [],
        outbox := s.outbox ++ [⟨0, (s.curByte s.rp.toNat).setWidth 32⟩] }
      else { s with rp := s.rp + 1, outbox := s.outbox ++ [⟨0, (s.curByte s.rp.toNat).setWidth 32⟩] }) := by
  obtain ⟨herr, -⟩ := popByte_frame s
  show execLinePop s = _
  rw [execLinePop, whenRunning_of_running he, inPhase_of_eq hp, if_pos hr, respond_eq, emit_of_noError (herr.trans he)]
  unfold popByte
  split <;> rfl

theorem curByte_of_read? {i : Nat} (h : s.cur.read? i = some b) : s.curByte i = b := by
  rw [State.curByte, LineMem.byte, h, Option.getD_some]

/-- Settles O35: the packet is the opcode above a byte immediate, and in LOAD the push writes the one index `WP`. -/
theorem linePushStoresByte : Obligations.LinePushStoresByte := by
  refine fun b => ⟨mkPacket_byteImm_eq_add 0x30 b, fun s he => ⟨fun hp hw => ?_, fun hp => ?_⟩⟩
  · refine ⟨_, exec_linePush_of_load he hp hw b, fun i => ?_⟩
    rw [LineMem.read?_write]
    exact if_congr eq_comm rfl rfl
  · exact exec_linePush_of_phase_ne he hp b

/-- Settles O36: in DRAIN the byte that `CUR` holds at `RP` is the byte read there. -/
theorem linePopReturnsByte : Obligations.LinePopReturnsByte := by
  refine ⟨rfl, fun s he => ⟨fun v hp hr hv => ?_, fun hp => exec_linePop_of_phase_ne he hp⟩⟩
  rw [← curByte_of_read? hv]
  exact exec_linePop_of_drain he hp hr

/-! A whole line into the unit. -/

/-- The bytes written one after the other, the first of them at index `k`. -/
def writeFrom (m : LineMem) (k : Nat) : List Byte → LineMem
  | [] => m
  | b :: bs => writeFrom (m.write k b) (k + 1) bs

theorem read?_writeFrom (m : LineMem) (k : Nat) (bs : List Byte) (i : Nat) :
    (writeFrom m k bs).read? i = if i < k then m.read? i else bs[i - k]?.or (m.read? i) := by
  induction bs generalizing m k with
  | nil => simp [writeFrom]
  | cons b bs ih =>
    rw [writeFrom, ih, LineMem.read?_write]
    rcases Nat.lt_trichotomy i k with hlt | rfl | hgt
    · rw [if_pos (by omega), if_neg (by omega), if_pos hlt]
    · simp
    · have hsub : i - k = (i - (k + 1)) + 1 := by omega
      rw [if_neg (by omega), if_neg (by omega), if_neg (by omega), hsub, List.getElem?_cons_succ]

theorem eq_nil_of_covers_zero {m : LineMem} (h : m.covers 0) : m = [] := List.map_eq_nil_iff.1 h

theorem add_one_eq_ofNat_of_toNat {v : Word} {k : Nat} (h : v.toNat + 1 = k) : v + 1 = BitVec.ofNat 32 k := by
  rw [← h, BitVec.ofNat_add, BitVec.ofNat_toNat, BitVec.setWidth_eq]
  rfl

/-- The pushes that are left for the line, at least one: by induction on those after the first, of which each but the last
stays in LOAD. -/
theorem runCommands_linePushN (b : Byte) (bs : List Byte) (he : s.err = .noError) (hp : s.phase = .load)
    (hlen : s.wp.toNat + (b :: bs).length = s.llen) (hmax : s.llen < 2 ^ 32) :
    runCommands (linePushN (b :: bs)) s = .next { s with
      cur := writeFrom s.cur s.wp.toNat (b :: bs), wp := BitVec.ofNat 32 s.llen, phase := .full,
      outbox := s.outbox ++ List.replicate (b :: bs).length ⟨0, 0⟩ } := by
  induction bs generalizing b s with
  | nil =>
    have hlast : s.wp.toNat + 1 = s.llen := hlen
    show runCommands [.linePush b] s = _
    rw [runCommands_cons, exec_linePush_of_load he hp (by omega), if_pos hlast, add_one_eq_ofNat_of_toNat hlast]
    rfl
  | cons c bs ih =>
    simp only [List.length_cons] at hlen
    have hw : s.wp.toNat < s.llen := by omega
    have hsucc := toNat_add_one_of_lt hw hmax
    show runCommands (.linePush b :: linePushN (c :: bs)) s = _
    rw [runCommands_cons, exec_linePush_of_load he hp hw, if_neg (by omega), andThen, ih]
    · simp only [hsucc, writeFrom, List.length_cons, List.replicate_succ, List.append_assoc, List.singleton_append]
      rfl
    · exact he
    · rfl
    · simp only [hsucc, List.length_cons, State.llen] at hlen ⊢
      omega
    · exact hmax

/-- Settles O38: the line memory of an idle unit is empty, and the pushes write the bytes into it in order. -/
theorem pushesFillTheLine : Obligations.PushesFillTheLine := by
  intro bs s hs he hp hw hlen
  obtain ⟨-, -, hcur⟩ := (phaseInv_iff_of_load hp).1 hs.phase_inv
  have hmax := llen_lt_of_inv hs
  have hwp : s.wp.toNat = 0 := congrArg BitVec.toNat hw
  have hempty : s.cur = [] := eq_nil_of_covers_zero (hwp ▸ hcur)
  cases bs with
  | nil => exact absurd hlen.symm (Nat.succ_ne_zero _)
  | cons b bs =>
    have hend : (BitVec.ofNat 32 s.llen).toNat = s.llen := (BitVec.toNat_ofNat _ _).trans (Nat.mod_eq_of_lt hmax)
    refine ⟨_, runCommands_linePushN b bs he hp (by omega) hmax, rfl, hend, rfl, rfl, fun i => ?_⟩
    simp [read?_writeFrom, hwp, hempty, LineMem.read?]

/-! A whole line out of the unit. -/

/-- The responses to the pops of the `n` indices of `CUR` from `k` on. -/
def popResponses (s : State) (k n : Nat) : List Response :=
  (List.range' k n).map fun i => ⟨0, (s.curByte i).setWidth 32⟩

/-- The pops that are left for the line, at least one: by induction on those before the last, each of which stays in
DRAIN and leaves `CUR` alone. -/
theorem runCommands_linePopN (n : Nat) (he : s.err = .noError) (hp : s.phase = .drain)
    (hlen : s.rp.toNat + (n + 1) = s.llen) (hmax : s.llen < 2 ^ 32) :
    runCommands (linePopN (n + 1)) s = .next { s with
      phase := .load, wp := 0, rp := 0, cur := [], outbox := s.outbox ++ popResponses s s.rp.toNat (n + 1) } := by
  induction n generalizing s with
  | zero =>
    show runCommands [.linePop] s = _
    rw [runCommands_cons, exec_linePop_of_drain he hp (by omega), if_pos hlen]
    rfl
  | succ n ih =>
    have hr : s.rp.toNat < s.llen := by omega
    have hsucc := toNat_add_one_of_lt hr hmax
    show runCommands (.linePop :: linePopN (n + 1)) s = _
    rw [runCommands_cons, exec_linePop_of_drain he hp hr, if_neg (by omega), andThen, ih]
    · simp only [hsucc, popResponses, List.range'_succ, List.map_cons, List.append_assoc, List.singleton_append]
      rfl
    · exact he
    · exact hp
    · simp only [hsucc, State.llen] at hlen ⊢
      omega
    · exact hmax

/-- Settles O39: `RP` is at the first index of the line, so the pops that are left are those of the whole line. -/
theorem popsDrainTheLine : Obligations.PopsDrainTheLine := by
  intro s hs he hp hr
  have hrp : s.rp.toNat = 0 := congrArg BitVec.toNat hr
  have hlen : s.rp.toNat + (s.rowBytes.toNat + 1) = s.llen := by rw [hrp, Nat.zero_add, State.llen]
  refine ⟨_, runCommands_linePopN s.rowBytes.toNat he hp hlen (llen_lt_of_inv hs), rfl, rfl, rfl, rfl, ?_⟩
  show s.outbox ++ popResponses s s.rp.toNat s.llen = _
  rw [hrp, popResponses, List.range_eq_range']

end Sys2Proof.Proofs
end

section
/-! Statements of the inverse transform (`42_defilter.md`): the five predictors, the line that DEFILT reconstructs, the tag
that it refuses, and the independence of the data bytes from the tag position of the previous line. -/

namespace Sys2Proof.Proofs

open Sys2Proof.Machine

variable {s : State} {ty : FilterType} {tag : Byte} {d x : Nat}

/-! The predictors. -/

theorem toNat_predAverage (a b : Byte) : (predAverage a b).toNat = (a.toNat + b.toNat) / 2 := by
  have ha := a.isLt
  have hb := b.isLt
  rw [predAverage, BitVec.toNat_ofNat, Nat.mod_eq_of_lt (by omega)]

/-- Settles O40: half the sum of two bytes is a byte; the other three predictions are operands by definition. -/
theorem simplePredictors : Obligations.SimplePredictors := fun a b _ =>
  ⟨rfl, rfl, rfl, toNat_predAverage a b⟩

/-- Settles O41: by the two comparisons of R146, after which only the order of the three distances counts. -/
theorem paethPicksNearest : Obligations.PaethPicksNearest := by
  intro a b c dist r
  have hr : r = if dist a ≤ dist b ∧ dist a ≤ dist c then a else if dist b ≤ dist c then b else c := rfl
  clear_value r dist
  split at hr
  · next ha =>
    obtain ⟨hab, hac⟩ := ha
    subst hr
    exact ⟨.inl rfl, le_rfl, hab, hac, fun _ _ => rfl, fun hb _ => by omega, fun hc _ => by omega⟩
  · next ha =>
    split at hr
    · next hb =>
      subst hr
      exact ⟨.inr (.inl rfl), by omega, le_rfl, hb, fun _ _ => by omega, fun _ _ => rfl, fun _ _ => by omega⟩
    · next hb =>
      subst hr
      exact ⟨.inr (.inr rfl), by omega, by omega, le_rfl, fun _ _ => by omega, fun _ _ => by omega, fun _ _ => rfl⟩

/-! The command, by the tag of the line. -/

theorem exec_defilt_of_tagType (he : s.err = .noError) (hp : s.phase = .full)
    (hty : tagType? (s.curByte 0) = some ty) : exec .defilt s = .next ((reconstruct ty s).emit 0) := by
  show execDefilt s = _
  rw [execDefilt, whenRunning_of_running he, inPhase_of_eq hp, hty]
  rfl

theorem exec_defilt_of_badTag (he : s.err = .noError) (hp : s.phase = .full) (htag : 5 ≤ (s.curByte 0).toNat) :
    exec .defilt s = raise .formatError s := by
  show execDefilt s = _
  rw [execDefilt, whenRunning_of_running he, inPhase_of_eq hp, (tagType?_eq_none_iff _).2 htag]

/-- Settles O44: no filter type has the tag. -/
theorem defiltBadTagRaisesFormatError : Obligations.DefiltBadTagRaisesFormatError := fun _ he hp htag =>
  exec_defilt_of_badTag he hp htag

theorem exists_tagType (h : tag.toNat ≤ 4) : ∃ ty, tagType? tag = some ty :=
  Option.ne_none_iff_exists'.1 fun hnone => by
    have := (tagType?_eq_none_iff tag).1 hnone
    omega

theorem tagType?_of_toNat (h : tag.toNat = (typeTag ty).toNat) : tagType? tag = some ty := by
  rw [BitVec.eq_of_toNat_eq h, tagType?_typeTag]

/-! The reconstructed line. -/

theorem read?_defiltLoop_outside {P : Nat → Byte} {n i : Nat} {m : LineMem} (h : i < x ∨ x + n ≤ i) :
    (defiltLoop ty P d n x m).read? i = m.read? i := by
  induction n generalizing x m with
  | zero => rfl
  | succ n ih => rw [defiltLoop, ih (by omega), LineMem.read?_write, if_neg (by omega)]

theorem read?_cur_reconstruct {i : Nat} (h : s.llen ≤ i) : (reconstruct ty s).cur.read? i = s.cur.read? i :=
  read?_defiltLoop_outside (.inr (by rw [State.llen] at h; omega))

theorem curByte_reconstruct_zero (ty : FilterType) (s : State) : (reconstruct ty s).curByte 0 = s.curByte 0 :=
  defiltLoop_byte_outside _ (.inl Nat.one_pos)

/-- The recurrence of R153: the neighbour `a` is read from the line that is reconstructed. -/
theorem curByte_reconstruct (h1 : 1 ≤ x) (hx : x ≤ s.rowBytes.toNat) :
    (reconstruct ty s).curByte x =
      s.curByte x + predAt ty (reconstruct ty s).curByte s.prevByte s.bdist x :=
  defiltLoop_byte_inside s.bdist_pos h1 (by omega)

theorem drainFrame_toDrain (he : s.err = .noError) (c p : LineMem) : DrainFrame s ((s.toDrain c p).emit 0) where
  acc := rfl
  err := rfl
  sbc := rfl
  rowBytes := rfl
  wp := rfl
  inbox := rfl
  resetAsserted := rfl
  phase := rfl
  rp := rfl
  outbox := by
    rw [emit_of_noError]
    · rfl
    · exact he

theorem add_predAverage (f a b : Byte) :
    f + predAverage a b = BitVec.ofNat 8 (f.toNat + (a.toNat + b.toNat) / 2) := by
  rw [predAverage, BitVec.ofNat_add, BitVec.ofNat_toNat, BitVec.setWidth_eq]

/-- Settles O43: the tag is that of one filter type, and the recurrence gives each data byte by the prediction of that
type. -/
theorem defiltReconstructsLine : Obligations.DefiltReconstructsLine := by
  intro s he hp htag
  obtain ⟨ty, hty⟩ := exists_tagType htag
  refine ⟨_, exec_defilt_of_tagType he hp hty, drainFrame_toDrain he _ _, rfl, curByte_reconstruct_zero ty s,
    fun _ => read?_cur_reconstruct, fun x h1 hx => ?_⟩
  have hbyte : ∀ ty', (s.curByte 0).toNat = (typeTag ty').toNat →
      (reconstruct ty s).curByte x = s.curByte x + predAt ty' (reconstruct ty s).curByte s.prevByte s.bdist x := by
    intro ty' h
    obtain rfl : ty = ty' := Option.some.inj (hty.symm.trans (tagType?_of_toNat h))
    exact curByte_reconstruct h1 hx
  exact ⟨fun h => (hbyte .none h).trans (BitVec.add_zero _), hbyte .sub, hbyte .up,
    fun h => (hbyte .average h).trans (add_predAverage _ _ _), hbyte .paeth⟩

/-! What the reconstructed line depends on. -/

theorem back_congr {line line' : Nat → Byte} (h : d + 1 ≤ x → line (x - d) = line' (x - d)) :
    back line d x = back line' d x := by
  unfold back
  split
  · next hx => exact h hx
  · rfl

/-- By strong induction on the index: the neighbours of a data byte are data bytes at lower indices, or the constant 0. -/
theorem curByte_reconstruct_congr {u : State} (hd : u.bdist = s.bdist) (hrow : u.rowBytes = s.rowBytes)
    (hdata : ∀ x, 1 ≤ x → x ≤ s.rowBytes.toNat → u.curByte x = s.curByte x ∧ u.prevByte x = s.prevByte x)
    (h1 : 1 ≤ x) (hx : x ≤ s.rowBytes.toNat) : (reconstruct ty u).curByte x = (reconstruct ty s).curByte x := by
  induction x using Nat.strong_induction_on with
  | h x ih =>
    obtain ⟨hcur, hprev⟩ := hdata x h1 hx
    have hpos := s.bdist_pos
    have hleft : back (reconstruct ty u).curByte s.bdist x = back (reconstruct ty s).curByte s.bdist x :=
      back_congr fun h => ih _ (by omega) (by omega) (by omega)
    have haboveLeft : back u.prevByte s.bdist x = back s.prevByte s.bdist x :=
      back_congr fun _ => (hdata _ (by omega) (by omega)).2
    rw [curByte_reconstruct h1 (by rwa [hrow]), curByte_reconstruct h1 hx, predAt, predAt, hd, hcur, hprev, hleft,
      haboveLeft]

/-- Settles O45: both lines are reconstructed with the one type of their tag. -/
theorem defiltIgnoresPrevTag : Obligations.DefiltIgnoresPrevTag := by
  intro s u s' u' hs hu hes hps htag heu hpu htags hsbc hrow hdata
  obtain ⟨ty, hty⟩ := exists_tagType htag
  rw [exec_defilt_of_tagType hes hps hty] at hs
  rw [exec_defilt_of_tagType heu hpu (htags ▸ hty)] at hu
  cases hs
  cases hu
  have hd : u.bdist = s.bdist := by rw [State.bdist, hsbc, State.bdist]
  exact ⟨curByte_reconstruct_zero ty s, fun _ => curByte_reconstruct_congr hd hrow hdata⟩

end Sys2Proof.Proofs
end

section
/-! Statements of the forward transform (`43_filter.md`): the line each FILT leaves, its tag, what the line depends on, the
inverse transform that undoes it, and the strategy bytes that are none. -/

namespace Sys2Proof.Proofs

open Sys2Proof.Machine

variable {s u : State} {f : Instr} {ty : FilterType} {x : Nat}

/-! The command. -/

/-- The filter type with which a FILT command filters the line: the strategy itself, or the choice of R193 for the
adaptive one (R170). -/
def filtType (f : Instr) (s : State) : FilterType :=
  match f with
  | .filtNone => .none
  | .filtSub => .sub
  | .filtUp => .up
  | .filtAvg => .average
  | .filtPaeth => .paeth
  | _ => adaptiveType s

theorem filtType_fixedFilt (ty : FilterType) (s : State) : filtType (fixedFilt ty) s = ty := by cases ty <;> rfl

theorem fixedFilt_mem_filtInstrs (ty : FilterType) : fixedFilt ty ∈ filtInstrs := by cases ty <;> decide

theorem filt_of_full {line : State → Nat → Byte} (he : s.err = .noError) (hp : s.phase = .full) :
    filt line s = .next ((takeFiltered (line s) s).emit 0) := by
  rw [filt, whenRunning_of_running he, inPhase_of_eq hp, done_eq]

/-- Every FILT of a full line completes, and is the fixed filter of its type. -/
theorem exec_filt_of_full (hf : f ∈ filtInstrs) (he : s.err = .noError) (hp : s.phase = .full) :
    exec f s = .next ((takeFiltered (fixedLine (filtType f s) s) s).emit 0) := by
  simp only [filtInstrs, List.mem_cons, List.not_mem_nil, or_false] at hf
  rcases hf with rfl | rfl | rfl | rfl | rfl | rfl <;> exact filt_of_full he hp

theorem exec_fixedFilt_of_full (ty : FilterType) (he : s.err = .noError) (hp : s.phase = .full) :
    exec (fixedFilt ty) s = .next ((takeFiltered (fixedLine ty s) s).emit 0) := by
  rw [exec_filt_of_full (fixedFilt_mem_filtInstrs ty) he hp, filtType_fixedFilt]

/-! The filtered line. -/

theorem fixedLine_of_pos (ty : FilterType) (s : State) (h1 : 1 ≤ x) :
    fixedLine ty s x = s.curByte x - predAt ty s.curByte s.prevByte s.bdist x :=
  if_neg (by omega)

theorem read?_cur_takeFiltered (F : Nat → Byte) (s : State) (x : Nat) :
    (takeFiltered F s).cur.read? x = if x ≤ s.rowBytes.toNat then some (F x) else none :=
  (LineMem.read?_ofFn _ F x).trans (if_congr Nat.lt_succ_iff rfl rfl)

theorem curByte_takeFiltered (F : Nat → Byte) (hx : x ≤ s.rowBytes.toNat) : (takeFiltered F s).curByte x = F x :=
  curByte_of_read? ((read?_cur_takeFiltered F s x).trans (if_pos hx))

/-- What the five unfolded rules R173 to R177 have in common: `data` is the raw byte less the prediction. -/
theorem fixedFilt_filters_line (ty : FilterType) {data : Nat → Byte} (he : s.err = .noError) (hp : s.phase = .full)
    (hdata : ∀ x, s.curByte x - predAt ty s.curByte s.prevByte s.bdist x = data x) :
    ∃ t, exec (fixedFilt ty) s = .next t ∧ DrainFrame s t ∧ t.prev = s.cur ∧
      ∀ x, t.cur.read? x =
        if x = 0 then some (typeTag ty) else if x ≤ s.rowBytes.toNat then some (data x) else none := by
  refine ⟨_, exec_fixedFilt_of_full ty he hp, drainFrame_toDrain he _ _, rfl, fun x => ?_⟩
  rw [State.emit_cur, read?_cur_takeFiltered]
  split
  · next hx =>
    split
    · next h0 => rw [h0, fixedLine_zero]
    · next h0 => rw [fixedLine_of_pos ty s (by omega), hdata]
  · next hx => rw [if_neg (by omega)]

/-- Settles O46: the prediction of each type, by definition; that of None is 0. -/
theorem filtFiltersLine : Obligations.FiltFiltersLine := fun _ he hp =>
  ⟨fixedFilt_filters_line .none he hp fun _ => BitVec.sub_zero _,
    fixedFilt_filters_line .sub he hp fun _ => rfl,
    fixedFilt_filters_line .up he hp fun _ => rfl,
    fixedFilt_filters_line .average he hp fun _ => rfl,
    fixedFilt_filters_line .paeth he hp fun _ => rfl⟩

theorem curByte_zero_takeFiltered_fixedLine (ty : FilterType) (s : State) :
    (takeFiltered (fixedLine ty s) s).curByte 0 = typeTag ty :=
  (curByte_takeFiltered _ (Nat.zero_le _)).trans (fixedLine_zero ty s)

/-- Settles O50: the tag is that of the type with which the line is filtered. -/
theorem filtLeavesFilterTypeTag : Obligations.FiltLeavesFilterTypeTag := by
  intro s t he hp f hf ht
  rw [exec_filt_of_full hf he hp] at ht
  cases ht
  rw [State.emit_curByte, curByte_zero_takeFiltered_fixedLine]
  refine ⟨typeTag_toNat_le _, fun ty hty => ?_⟩
  rw [hty, filtType_fixedFilt]

/-! What the filtered line depends on. -/

/-- A prediction reads the line before its index and the previous line up to it, and no tag position of either (R140). -/
theorem predAt_congr {S S' P P' : Nat → Byte} {d : Nat} (hd : 1 ≤ d) (h1 : 1 ≤ x)
    (hS : ∀ y, 1 ≤ y → y < x → S' y = S y) (hP : ∀ y, 1 ≤ y → y ≤ x → P' y = P y) :
    predAt ty S' P' d x = predAt ty S P d x := by
  have hleft : back S' d x = back S d x := back_congr fun h => hS _ (by omega) (by omega)
  have haboveLeft : back P' d x = back P d x := back_congr fun h => hP _ (by omega) (by omega)
  rw [predAt, predAt, hleft, haboveLeft, hP x h1 le_rfl]

theorem bdist_congr (hsbc : u.sbc = s.sbc) : u.bdist = s.bdist := by rw [State.bdist, hsbc, State.bdist]

theorem ofFn_congr {n : Nat} {F G : Nat → Byte} (h : ∀ x < n, F x = G x) : LineMem.ofFn n F = LineMem.ofFn n G :=
  List.map_congr_left fun x hx => by rw [h x (List.mem_range.1 hx)]

theorem cost_congr {n : Nat} {F G : Nat → Byte} (h : ∀ x, 1 ≤ x → x ≤ n → F x = G x) : cost n F = cost n G :=
  congrArg List.sum <| List.map_congr_left fun k hk => by
    have := List.mem_range.1 hk
    rw [h (k + 1) (by omega) (by omega)]

section SameData

/-! Two lines of one configuration that agree but for the two tag positions. -/

variable (hsbc : u.sbc = s.sbc) (hrow : u.rowBytes = s.rowBytes)
  (hdata : ∀ x, 1 ≤ x → x ≤ s.rowBytes.toNat → u.curByte x = s.curByte x ∧ u.prevByte x = s.prevByte x)

include hsbc hdata

theorem fixedLine_congr (ty : FilterType) (hx : x ≤ s.rowBytes.toNat) : fixedLine ty u x = fixedLine ty s x := by
  rcases Nat.eq_zero_or_pos x with rfl | h1
  · rw [fixedLine_zero, fixedLine_zero]
  · have hpred : predAt ty u.curByte u.prevByte s.bdist x = predAt ty s.curByte s.prevByte s.bdist x :=
      predAt_congr s.bdist_pos h1 (fun y hy hyx => (hdata y hy (by omega)).1)
        (fun y hy hyx => (hdata y hy (by omega)).2)
    rw [fixedLine_of_pos ty u h1, fixedLine_of_pos ty s h1, bdist_congr hsbc, hpred, (hdata x h1 hx).1]

include hrow

theorem candidateCost_congr (ty : FilterType) : candidateCost u ty = candidateCost s ty := by
  rw [candidateCost, hrow, candidateCost]
  exact cost_congr fun x _ hx => fixedLine_congr hsbc hdata ty hx

/-- The choice of R193 is made from the costs alone. -/
theorem filtType_congr (f : Instr) : filtType f u = filtType f s := by
  have hadaptive : adaptiveType u = adaptiveType s :=
    congrArg cheapest (funext (candidateCost_congr hsbc hrow hdata))
  simp only [filtType, hadaptive]

end SameData

/-- Settles O51: the two lines are filtered with the same type, and the filtered bytes are the same index by index. -/
theorem filtIgnoresTagPositions : Obligations.FiltIgnoresTagPositions := by
  intro s u s' u' f hf hs hu hes hps heu hpu hsbc hrow hdata
  rw [exec_filt_of_full hf hes hps] at hs
  rw [exec_filt_of_full hf heu hpu, filtType_congr hsbc hrow hdata] at hu
  cases hs
  cases hu
  show LineMem.ofFn u.llen _ = LineMem.ofFn s.llen _
  rw [State.llen, hrow]
  exact ofFn_congr fun x hx => fixedLine_congr hsbc hdata _ (Nat.le_of_lt_succ hx)

/-! The inverse transform of the filtered line. -/

/-- R179, by strong induction on the index: the data bytes before `x` are the raw ones again, so DEFILT adds the
prediction that FILT took away. -/
theorem curByte_reconstruct_of_fixedLine (hsbc : u.sbc = s.sbc) (hrow : u.rowBytes = s.rowBytes)
    (hcur : ∀ x, x ≤ s.rowBytes.toNat → u.curByte x = fixedLine ty s x)
    (hprev : ∀ x, 1 ≤ x → x ≤ s.rowBytes.toNat → u.prevByte x = s.prevByte x)
    (h1 : 1 ≤ x) (hx : x ≤ s.rowBytes.toNat) : (reconstruct ty u).curByte x = s.curByte x := by
  induction x using Nat.strong_induction_on with
  | h x ih =>
    have hpred : predAt ty (reconstruct ty u).curByte u.prevByte s.bdist x =
        predAt ty s.curByte s.prevByte s.bdist x :=
      predAt_congr s.bdist_pos h1 (fun y hy hyx => ih y hyx hy (by omega)) (fun y hy hyx => hprev y hy (by omega))
    rw [curByte_reconstruct h1 (by rwa [hrow]), bdist_congr hsbc, hpred, hcur x hx, fixedLine_of_pos ty s h1,
      BitVec.sub_add_cancel]

theorem byte_of_read? {m : LineMem} {i : Nat} {b : Byte} (free : Nat → Byte) (h : m.read? i = some b) :
    m.byte free i = b := by
  rw [LineMem.byte, h, Option.getD_some]

/-- The loop writes every index of its range. -/
theorem exists_read?_defiltLoop_inside {P : Nat → Byte} {d n i : Nat} {m : LineMem} (h1 : x ≤ i) (h2 : i < x + n) :
    ∃ b, (defiltLoop ty P d n x m).read? i = some b := by
  induction n generalizing x m with
  | zero => omega
  | succ n ih =>
    rw [defiltLoop]
    by_cases hx : x = i
    · rw [read?_defiltLoop_outside (by omega), LineMem.read?_write, if_pos hx]
      exact ⟨_, rfl⟩
    · exact ih (by omega) (by omega)

/-- R151: at a data index `PREV` shows the reconstructed byte, which has a value. -/
theorem prevByte_reconstruct (ty : FilterType) (h1 : 1 ≤ x) (hx : x ≤ s.rowBytes.toNat) :
    (reconstruct ty s).prevByte x = (reconstruct ty s).curByte x := by
  obtain ⟨b, hb⟩ : ∃ b, (defiltLine ty s).read? x = some b := exists_read?_defiltLoop_inside h1 (by omega)
  exact (byte_of_read? _ hb).trans (byte_of_read? _ hb).symm

/-- R172: where the raw line has a byte, `PREV` shows that byte. -/
theorem prevByte_takeFiltered {b : Byte} (F : Nat → Byte) (hb : s.cur.read? x = some b) :
    (takeFiltered F s).prevByte x = s.curByte x :=
  (byte_of_read? _ hb).trans (byte_of_read? _ hb).symm

/-- Settles O52: the tag of the filtered line names the type it was filtered with, and DEFILT of that type restores the
raw line, which both engines then keep in `PREV`. -/
theorem defiltUndoesFilt : Obligations.DefiltUndoesFilt := by
  intro s t u f hf ht hes hps heu hpu hsbc hrow hcur hprev
  rw [exec_filt_of_full hf hes hps] at ht
  cases ht
  have hline (x : Nat) (hx : x ≤ s.rowBytes.toNat) : u.curByte x = fixedLine (filtType f s) s x :=
    (hcur x hx).trans (curByte_takeFiltered _ hx)
  have htag : tagType? (u.curByte 0) = some (filtType f s) := by
    rw [hline 0 (Nat.zero_le _), fixedLine_zero, tagType?_typeTag]
  refine ⟨_, exec_defilt_of_tagType heu hpu htag,
    (curByte_reconstruct_zero _ u).trans (hcur 0 (Nat.zero_le _)), fun x h1 hx => ?_⟩
  have hraw := curByte_reconstruct_of_fixedLine hsbc hrow hline hprev h1 hx
  refine ⟨hraw, fun ⟨b, hb⟩ => ?_⟩
  calc (reconstruct (filtType f s) u).prevByte x
      = (reconstruct (filtType f s) u).curByte x := prevByte_reconstruct _ h1 (by rwa [hrow])
    _ = s.curByte x := hraw
    _ = (takeFiltered (fixedLine (filtType f s) s) s).prevByte x := (prevByte_takeFiltered _ hb).symm

/-! A strategy byte that is none of the six. -/

theorem filtOfStrategy_eq_none {b : Byte} (h5 : 5 ≤ b.toNat) (hFE : b.toNat ≤ 0xFE) : filtOfStrategy b = none :=
  Option.eq_none_iff_forall_ne_some.2 fun _ h => by
    rcases filtOfStrategy_cases h with ⟨rfl, -⟩ | ⟨rfl, -⟩ | ⟨rfl, -⟩ | ⟨rfl, -⟩ | ⟨rfl, -⟩ | ⟨rfl, -⟩ <;> contradiction

theorem decode_filt_of_badStrategy {b : Byte} (h5 : 5 ≤ b.toNat) (hFE : b.toNat ≤ 0xFE) :
    decode (mkPacket 0x41 (byteImm b)) = .error (.filtStrategy b) := by
  have hop : decode (mkPacket 0x41 (byteImm b)) = decodeOperand .filt (byteImm b) :=
    decode_mkPacket .filt _ (reservedClear_byteImm b)
  rw [hop, decodeOperand, byteOperand_byteImm, filtOfStrategy_eq_none h5 hFE]

/-- Settles O12: the decoder rejects the packet, and a running engine raises InvariantError for it. -/
theorem badStrategyRaisesInvariantError : Obligations.BadStrategyRaisesInvariantError := by
  intro s b rest hreset hi he h5 hFE
  rw [← byteImm_eq_setWidth] at hi
  rw [step_eq_execRejected hreset hi (decode_filt_of_badStrategy h5 hFE), execRejected_eq, State.setInbox_err, if_pos he]
  rfl

end Sys2Proof.Proofs
end

section
/-! Statements of the adaptive forward transform (`44_adaptive.md`): the magnitude of a byte and the cost of a line, the
choice of the filter type, and what it chooses on a first line and on a repeated line. -/

namespace Sys2Proof.Proofs

open Sys2Proof.Machine

variable {s : State} {ty : FilterType} {k : FilterType → Nat} {x : Nat}

/-! The magnitude of a byte and the cost of a line. -/

theorem sabs_eq_natAbs_toInt (v : Byte) : sabs v = v.toInt.natAbs := by
  have hlt := v.isLt
  rw [sabs, BitVec.toInt_eq_toNat_cond]
  split <;> split <;> omega

theorem sabs_le (v : Byte) : sabs v ≤ 128 := by
  have hlt := v.isLt
  rw [sabs]
  split <;> omega

/-- Settles O48: by the two halves of the range of a byte. -/
theorem sabsIsAbsoluteValue : Obligations.SabsIsAbsoluteValue := fun v =>
  ⟨sabs_eq_natAbs_toInt v, sabs_le v⟩

theorem cost_succ (n : Nat) (F : Nat → Byte) : cost (n + 1) F = cost n F + sabs (F (n + 1)) := by
  simp [cost, List.range_succ]

theorem cost_le (n : Nat) (F : Nat → Byte) : cost n F ≤ 128 * n := by
  induction n with
  | zero => exact Nat.zero_le _
  | succ n ih =>
    have hlast := sabs_le (F (n + 1))
    rw [cost_succ]
    omega

theorem cost_eq_zero {n : Nat} {F : Nat → Byte} (h : ∀ x, 1 ≤ x → x ≤ n → F x = 0) : cost n F = 0 := by
  induction n with
  | zero => rfl
  | succ n ih =>
    rw [cost_succ, ih fun x h1 hx => h x h1 (by omega), h (n + 1) (by omega) le_rfl]
    rfl

/-- Settles O49: by induction on the number of data bytes. -/
theorem costIsExactSum : Obligations.CostIsExactSum := fun n F _ =>
  ⟨rfl, cost_succ n F, cost_le n F, cost_congr⟩

/-! The choice among the five types. -/

/-- The five types in the order of R194. -/
def filterTypes : List FilterType := [.none, .sub, .up, .average, .paeth]

theorem idxOf_filterTypes (ty : FilterType) : filterTypes.idxOf ty = (typeTag ty).toNat := by cases ty <;> decide

theorem mem_filterTypes (ty : FilterType) : ty ∈ filterTypes := by cases ty <;> decide

theorem typeTag_injective : Function.Injective typeTag := fun ty ty' h =>
  Option.some.inj (by rw [← tagType?_typeTag ty, h, tagType?_typeTag])

/-- The loop of R193 is the library's first minimum of a list. -/
theorem argmin_filterTypes (k : FilterType → Nat) : filterTypes.argmin k = some (cheapest k) := by
  simp only [filterTypes, cheapest, List.argmin, List.foldl, List.argAux, ← apply_ite some]

/-- R193, R194: the choice is the type that costs no more than any type and less than every type of a smaller number. -/
theorem cheapest_eq_iff : cheapest k = ty ↔
    ∀ ty', k ty ≤ k ty' ∧ ((typeTag ty').toNat < (typeTag ty).toNat → k ty < k ty') := by
  have hfirst : cheapest k = ty ↔ ty ∈ filterTypes.argmin k := by
    rw [argmin_filterTypes, Option.mem_some_iff]
  rw [hfirst, List.mem_argmin_iff]
  simp only [mem_filterTypes, idxOf_filterTypes, true_and, forall_true_left]
  rw [← forall_and]
  exact forall_congr' fun ty' => and_congr_right' (by rw [← not_lt, ← not_lt, not_imp_not])

theorem exec_filtAdapt_of_full (he : s.err = .noError) (hp : s.phase = .full) :
    exec .filtAdapt s = .next ((takeFiltered (fixedLine (adaptiveType s) s) s).emit 0) :=
  exec_filt_of_full (by decide) he hp

theorem cost_takeFiltered_fixedLine (ty : FilterType) (s : State) :
    cost s.rowBytes.toNat ((takeFiltered (fixedLine ty s) s).emit 0).curByte = candidateCost s ty :=
  cost_congr fun _ _ hx => curByte_takeFiltered _ hx

/-- Settles O47: FILT.ADAPT is the fixed filter of the type it chooses, and the costs of the lines are those it
compares. -/
theorem filtAdaptPicksFirstCheapest : Obligations.FiltAdaptPicksFirstCheapest := by
  intro s he hp
  refine ⟨_, adaptiveType s, exec_filtAdapt_of_full he hp, exec_fixedFilt_of_full _ he hp, fun ty u hu => ?_⟩
  rw [exec_fixedFilt_of_full ty he hp] at hu
  cases hu
  rw [cost_takeFiltered_fixedLine, cost_takeFiltered_fixedLine, State.emit_curByte, State.emit_curByte,
    curByte_zero_takeFiltered_fixedLine, curByte_zero_takeFiltered_fixedLine]
  exact cheapest_eq_iff.1 rfl ty

/-! Predictions from equal neighbours. -/

/-- R146: the estimate is the left neighbour itself. -/
theorem predPaeth_of_above_eq_aboveLeft (a b : Byte) : predPaeth a b b = a :=
  if_pos (by omega)

/-- R146, R196: the estimate is the upper neighbour, and `a` is chosen in its place only when equal to it. -/
theorem predPaeth_of_left_eq_aboveLeft (a b : Byte) : predPaeth a b a = b := by
  simp only [predPaeth]
  split
  · next h => exact BitVec.eq_of_toNat_eq (by omega)
  · exact if_pos (by omega)

/-! A first line. -/

theorem candidateCost_congr_pred {ty ty' : FilterType}
    (h : ∀ x, 1 ≤ x → x ≤ s.rowBytes.toNat →
      predAt ty s.curByte s.prevByte s.bdist x = predAt ty' s.curByte s.prevByte s.bdist x) :
    candidateCost s ty = candidateCost s ty' :=
  cost_congr fun x h1 hx => by rw [fixedLine_of_pos ty s h1, fixedLine_of_pos ty' s h1, h x h1 hx]

/-- R194: an earlier type of the same cost keeps the choice. -/
theorem adaptiveType_ne_of_tie {ty ty' : FilterType} (hcost : candidateCost s ty = candidateCost s ty')
    (htag : (typeTag ty').toNat < (typeTag ty).toNat) : adaptiveType s ≠ ty := fun h => by
  obtain ⟨-, hearlier⟩ := cheapest_eq_iff.1 h ty'
  exact (hearlier htag).ne hcost

/-- Settles O53: over a zero previous line Up predicts what None does and Paeth what Sub does (R194). -/
theorem firstLineNeverUpOrPaeth : Obligations.FirstLineNeverUpOrPaeth := by
  intro s t he hp ht hprev
  rw [exec_filtAdapt_of_full he hp] at ht
  cases ht
  have haboveLeft (x : Nat) (hx : x ≤ s.rowBytes.toNat) : back s.prevByte s.bdist x = 0 := by
    rw [back, ite_eq_right_iff]
    exact fun h => hprev _ (by omega) (by omega)
  have hup : candidateCost s .up = candidateCost s .none := candidateCost_congr_pred hprev
  have hpaeth : candidateCost s .paeth = candidateCost s .sub := candidateCost_congr_pred fun x h1 hx => by
    rw [predAt, hprev x h1 hx, haboveLeft x hx]
    exact predPaeth_of_above_eq_aboveLeft _ 0
  rw [State.emit_curByte, curByte_zero_takeFiltered_fixedLine]
  exact ⟨fun h => adaptiveType_ne_of_tie hup (by decide) (typeTag_injective h),
    fun h => adaptiveType_ne_of_tie hpaeth (by decide) (typeTag_injective h)⟩

/-! A repeated line. -/

theorem fixedLine_eq_zero (h1 : 1 ≤ x) (hpred : predAt ty s.curByte s.prevByte s.bdist x = s.curByte x) :
    fixedLine ty s x = 0 := by
  rw [fixedLine_of_pos ty s h1, hpred]
  exact BitVec.sub_self _

section Repeated

variable (hrep : ∀ x, 1 ≤ x → x ≤ s.rowBytes.toNat → s.curByte x = s.prevByte x)

include hrep

theorem fixedLine_up_of_repeated (h1 : 1 ≤ x) (hx : x ≤ s.rowBytes.toNat) : fixedLine .up s x = 0 :=
  fixedLine_eq_zero h1 (hrep x h1 hx).symm

/-- R196: the left and the upper left neighbour are equal, so Paeth predicts the upper neighbour. -/
theorem fixedLine_paeth_of_repeated (h1 : 1 ≤ x) (hx : x ≤ s.rowBytes.toNat) : fixedLine .paeth s x = 0 := by
  have hleft : back s.curByte s.bdist x = back s.prevByte s.bdist x :=
    back_congr fun h => hrep _ (by omega) (by omega)
  refine fixedLine_eq_zero h1 ?_
  rw [predAt, hleft, hrep x h1 hx]
  exact predPaeth_of_left_eq_aboveLeft _ _

/-- R196: Up costs nothing, and of the types before it both cost something. -/
theorem adaptiveType_of_repeated (hnone : 0 < candidateCost s .none) (hsub : 0 < candidateCost s .sub) :
    adaptiveType s = .up := by
  have hup : candidateCost s .up = 0 := cost_eq_zero fun x => fixedLine_up_of_repeated hrep
  refine cheapest_eq_iff.2 fun ty => ?_
  rw [hup]
  refine ⟨Nat.zero_le _, fun htag => ?_⟩
  cases ty with
  | none => exact hnone
  | sub => exact hsub
  | up | average | paeth => exact absurd htag (by decide)

end Repeated

/-- Settles O54: Up and Paeth predict a repeated line exactly, and Up comes first. -/
theorem repeatedLineChoosesUp : Obligations.RepeatedLineChoosesUp := by
  intro s he hp hrep
  have hup (x : Nat) (h1 : 1 ≤ x) (hx : x ≤ s.rowBytes.toNat) :
      ((takeFiltered (fixedLine .up s) s).emit 0).curByte x = 0 :=
    (curByte_takeFiltered _ hx).trans (fixedLine_up_of_repeated hrep h1 hx)
  refine ⟨fun f hf => ?_, fun hpos => ?_⟩
  · simp only [List.mem_cons, List.not_mem_nil, or_false] at hf
    rcases hf with rfl | rfl
    · exact ⟨_, exec_fixedFilt_of_full .up he hp, hup⟩
    · exact ⟨_, exec_fixedFilt_of_full .paeth he hp, fun x h1 hx =>
        (curByte_takeFiltered _ hx).trans (fixedLine_paeth_of_repeated hrep h1 hx)⟩
  · have hcost (ty : FilterType) (hf : fixedFilt ty ∈ [Instr.filtNone, .filtSub, .filtAvg]) :
        0 < candidateCost s ty := by
      rw [← cost_takeFiltered_fixedLine]
      exact hpos _ hf _ (exec_fixedFilt_of_full ty he hp)
    have hchoice : adaptiveType s = .up :=
      adaptiveType_of_repeated hrep (hcost .none (by decide)) (hcost .sub (by decide))
    refine ⟨_, exec_filtAdapt_of_full he hp, ?_⟩
    rw [hchoice]
    exact ⟨curByte_zero_takeFiltered_fixedLine .up s, hup⟩

end Sys2Proof.Proofs
end

section
/-! Statements of the system commands (`45_system.md`): NOP and RESET, which answer the same way running and halted. -/

namespace Sys2Proof.Proofs

open Sys2Proof.Machine

theorem exec_nop (s : State) : exec .nop s = .next (s.emit 0) := done_eq s

/-- Settles O17: NOP only responds, and a response appends to the output port and nothing else (R73, R200). -/
theorem nopChangesNothing : Obligations.NopChangesNothing :=
  ⟨rfl, exec_nop⟩

/-- Settles O18: RESET responds from the reset engine, whose `ERR` is clear whatever was latched before (R201). -/
theorem resetCommandGivesResetState : Obligations.ResetCommandGivesResetState := by
  refine ⟨rfl, fun s => ?_⟩
  rw [exec_reset, emit_of_noError s.resetEngine_err]
  rfl

end Sys2Proof.Proofs
end

section
/-! Statements of the errors and the halted state (`60_exceptions.md`): what raises changes `ERR` alone, what a halted
engine still does, and what ends the halt. -/

namespace Sys2Proof.Proofs

open Sys2Proof.Machine

variable {s t : State} {p : Packet} {rest : List Packet} {i : Instr}

/-! Raising an error (R226). -/

theorem exec_raises (h : exec i s = .next t) (hs : s.err = .noError) (ht : t.err ≠ .noError) :
    ∃ e, t = (s.setErr e).emit 0 := by
  rcases exec_cases h with ⟨he, -⟩ | ⟨e, -, -, rfl⟩ | ⟨-, rfl⟩ | ⟨-, -, u, d, rfl, hu, -⟩
  · exact absurd hs he
  · exact ⟨e, rfl⟩
  · exact absurd s.resetEngine_err ht
  · exact absurd (hu.trans hs) ht

theorem execRejected_raises {r : Reject} (h : execRejected r s = .next t) (hs : s.err = .noError) :
    ∃ e, t = (s.setErr e).emit 0 := by
  rcases execRejected_cases h with ⟨he, -⟩ | ⟨-, rfl⟩
  · exact absurd hs he
  · exact ⟨.invariantError, rfl⟩

/-- The step that raises takes its packet, sets `ERR` and responds with data 0. -/
theorem step_raises (h : step s = .next t) (hs : s.err = .noError) (ht : t.err ≠ .noError) :
    ∃ e, t = ((s.setInbox s.inbox.tail).setErr e).emit 0 := by
  rcases step_cases h with ⟨-, rfl⟩ | ⟨-, -, rfl⟩ | ⟨_, rest, r, -, hi, -, hrej⟩ | ⟨_, rest, i, -, hi, -, hex⟩
  · exact absurd s.resetEngine_err ht
  · exact absurd hs ht
  · rw [hi]
    exact execRejected_raises hrej hs
  · rw [hi]
    exact exec_raises hex hs ht

/-- Settles O15: the step that raises is the update of `ERR` and the response to it, on the port without its packet. -/
theorem errorEntryIsPrecise : Obligations.ErrorEntryIsPrecise := by
  intro s t h hs ht
  obtain ⟨e, rfl⟩ := step_raises h hs ht
  exact ⟨rfl, rfl, rfl⟩

/-! The packet of RDREG. -/

theorem encode_rdreg_toNat (r : Byte) : (encode (.rdreg r)).toNat = 0x0200000000 + r.toNat := by
  rw [encode, mkPacket_toNat, byteImm_toNat]
  rfl

/-- The bits above the operand byte are the opcode and clear reserved bits (R72, R77). -/
theorem encode_rdreg_eq_iff {r : Byte} :
    encode (.rdreg r) = p ↔ p.extractLsb' 8 32 = 0x02000000#32 ∧ r = p.extractLsb' 0 8 := by
  have hr := r.isLt
  have hp := p.isLt
  simp only [← BitVec.toNat_inj, encode_rdreg_toNat, BitVec.extractLsb'_toNat, Nat.shiftRight_eq_div_pow,
    BitVec.toNat_ofNat]
  omega

/-! The halted engine (R227). -/

/-- RDREG reads 0 for an unimplemented number while the engine is halted (R202). -/
theorem exec_rdreg_of_halted (he : s.err ≠ .noError) (r : Byte) :
    exec (.rdreg r) s = .next (s.emit ((s.reg? r).getD 0)) := by
  show execRdreg r s = _
  rw [execRdreg, if_pos ((State.halted_eq_true_iff s).2 he), respond_eq]

/-- A packet is ignored when it stands for none of the commands that a halted engine executes. -/
theorem step_ignores_of_halted (hreset : s.resetAsserted = false) (hi : s.inbox = p :: rest) (he : s.err ≠ .noError)
    (h1 : encode .reset ≠ p) (h2 : ∀ r, encode (.rdreg r) ≠ p) : step s = .next ((s.setInbox rest).emit 0) := by
  cases hd : decode p with
  | error r => rw [step_eq_execRejected hreset hi hd, execRejected_eq, State.setInbox_err, if_neg he]
  | ok i =>
    have hp : encode i = p := encode_of_decode hd
    rw [step_eq_exec hreset hi hd]
    refine exec_of_halted he ?_ fun r => ?_
    · rintro rfl; exact h1 hp
    · rintro rfl; exact h2 r hp

/-- Settles O13: RESET has one packet, the packets of RDREG are those with its upper bits, and the halted engine ignores the
rest. -/
theorem haltedEngineIgnoresAllElse : Obligations.HaltedEngineIgnoresAllElse := by
  intro s p rest hreset hi he
  split
  · next hp =>
    subst hp
    rw [step_eq_exec hreset hi (decode_encode .reset), exec_reset]
    rfl
  · next h1 =>
    split
    · next h2 =>
      have hp : encode (.rdreg (p.extractLsb' 0 8)) = p := encode_rdreg_eq_iff.2 ⟨h2, rfl⟩
      rw [step_eq_exec hreset hi ((decodeEncodeAgree _ _).2 hp), exec_rdreg_of_halted (s := s.setInbox rest) he]
      rfl
    · next h2 =>
      exact step_ignores_of_halted hreset hi he (Ne.symm h1) fun r hp => h2 (encode_rdreg_eq_iff.1 hp).1

/-! The latch (R225) and the way out of the halt (R229). -/

theorem exec_err_of_halted (h : exec i s = .next t) (he : s.err ≠ .noError) (hi : i ≠ .reset) : t.err = s.err := by
  rcases exec_cases h with ⟨-, -, d, rfl, -⟩ | ⟨_, hs, -⟩ | ⟨hreset, -⟩ | ⟨hs, -⟩
  · rfl
  · exact absurd hs he
  · exact absurd hreset hi
  · exact absurd hs he

/-- Only the command RESET has the packet of RESET. -/
theorem head?_ne_resetPacket (hi : s.inbox = p :: rest) (hd : decode p ≠ .ok .reset) :
    s.inbox.head? ≠ some 0x0100000000 := by
  rw [hi]
  intro hp
  cases Option.some.inj hp
  exact hd (decode_encode .reset)

/-- Settles O14: a step that is not a reset waits, ignores a rejected packet or answers a command, and keeps `ERR` in all
three. -/
theorem latchedErrorStaysUntilReset : Obligations.LatchedErrorStaysUntilReset := by
  intro s t h he resets
  have hstays (hr : s.resetAsserted = false) (hhead : s.inbox.head? ≠ some 0x0100000000) : ¬resets :=
    not_or.2 ⟨ne_true_of_eq_false hr, hhead⟩
  rcases step_cases h with ⟨hr, rfl⟩ | ⟨hr, hi, rfl⟩ | ⟨p, rest, r, hr, hi, hd, hrej⟩ | ⟨p, rest, i, hr, hi, hd, hex⟩
  · exact .inr ⟨.inl hr, rfl⟩
  · exact .inl ⟨hstays hr (by rw [hi]; nofun), rfl⟩
  · refine .inl ⟨hstays hr (head?_ne_resetPacket hi (by rw [hd]; nofun)), ?_⟩
    rcases execRejected_cases hrej with ⟨-, rfl⟩ | ⟨hs, -⟩
    · rfl
    · exact absurd hs he
  · by_cases hireset : i = .reset
    · subst hireset
      cases hex
      exact .inr ⟨.inr (by rw [hi, ← encode_of_decode hd]; rfl), rfl⟩
    · exact .inl ⟨hstays hr (head?_ne_resetPacket hi (by rwa [hd, ne_eq, Except.ok.injEq])),
        exec_err_of_halted (s := s.setInbox rest) hex he hireset⟩

end Sys2Proof.Proofs
end

section
/-! The reset input (`70_reset_and_hazards.md`). -/

namespace Sys2Proof.Proofs

open Sys2Proof.Machine

/-- R260: the branch of `step` for the asserted reset input, which comes before the command port is looked at. -/
theorem step_eq_applyResetInput {s : State} (hr : s.resetAsserted = true) : step s = applyResetInput s :=
  if_pos hr

/-- Settles O9: the step resets the engine, then empties the command port and releases the reset input; neither touches the
response port. -/
theorem resetInputGivesResetState : Obligations.ResetInputGivesResetState := by
  intro s hr
  calc step s = applyResetInput s := step_eq_applyResetInput hr
    _ = .next s.resetEngine.releaseReset := rfl
    _ = .next { toEngine := Engine.reset, inbox := [], resetAsserted := false, outbox := s.outbox } := rfl

end Sys2Proof.Proofs
end
